-- ==== Sys2Proof/Word.lean ====
section
/-! DEFINITION. The word types of the display-bus transmitter: the port word (00_scope.md R6, R10: `PORT_WIDTH`
bits, an open width), the 4-bit nibble, the 8-bit byte and the 9-bit bus frame (30_encoding.md R46). -/

namespace Sys2Proof

/-- The contents of a pin register or a mask: the unsigned number (R10) of its `PORT_WIDTH` bits. The width is an
open parameter of the configuration (R6), so it is no part of this type; every operation that makes a port word
(Machine/Operands.lean) computes on bit vectors of `PORT_WIDTH` bits. -/
abbrev PortWord := Nat

/-- A nibble: "a 4-bit half of a byte" (R13). -/
abbrev Nibble := BitVec 4

/-- A byte of the bus protocol (R32). -/
abbrev Byte := BitVec 8

/-- A bus frame `F = {RS, B[7:0]}` (R46). -/
abbrev Frame := BitVec 9

end Sys2Proof
end

