-- ==== Sys2Proof/Syntax.lean ====
section
/-! DEFINITION. The instructions (one constructor per row of spec/opcode_table.json), the host command list as it is
written down before transcription (30_encoding.md R52, R54), and the pseudo-instructions (R56). -/

namespace Sys2Proof

/-- Line Identifier (R13): "one of two values, `Line1` or `Line2`". -/
inductive Line where
  | line1
  | line2
  deriving DecidableEq, Repr, Inhabited

/-- The three kinds of delay of R24, R54 and R81. -/
inductive WaitKind where
  | settle
  | stabPre
  | stabPost
  deriving DecidableEq, Repr

/-- Instruction Code (R52): the closed set of five. `setaddr L COL` has a 6-bit column (R48). -/
inductive InstrCode where
  | clear
  | home
  | dispon
  | fset
  | setaddr (l : Line) (col : BitVec 6)
  deriving DecidableEq, Repr

/-- One constructor per row of spec/opcode_table.json: the six frame rows (R57; R69–R73, and R68 for CHARACTER),
then the six host commands (R54). -/
inductive Instr where
  | clearDisplay
  | returnHome
  | displayOn
  | functionSet
  | setAddress (l : Line) (col : BitVec 6)
  | character (c : Byte)
  | sendNibble (v : Nibble)
  | sendByte (b : Byte)
  | sendInstruction (code : InstrCode)
  | sendCharacter (c : Byte)
  | portInit
  | wait (k : WaitKind)
  deriving DecidableEq, Repr

/-- The transfers: every instruction that R86 makes subject to `UNINIT`, which is all but PORT_INIT and WAIT. -/
def Instr.isTransfer : Instr → Bool
  | .clearDisplay => true
  | .returnHome => true
  | .displayOn => true
  | .functionSet => true
  | .setAddress _ _ => true
  | .character _ => true
  | .sendNibble _ => true
  | .sendByte _ => true
  | .sendInstruction _ => true
  | .sendCharacter _ => true
  | .portInit => false
  | .wait _ => false

/-- The operand of `INSTR` as it is written, before transcription checks it (R52): one of the five names, or a raw
byte, which is never an operand of SEND_INSTRUCTION. Line and column are numbers here; R52 bounds them. -/
inductive SourceCode where
  | clear
  | home
  | dispon
  | fset
  | setaddr (line col : Nat)
  | rawByte (b : Nat)
  deriving DecidableEq, Repr

/-- A command of the host's list as it is written, before transcription (R52, R55). `frame F` names a row of the
opcode table by its 9-bit frame (R57); it is the model's own form (notes/assumptions/4.md). -/
inductive Command where
  | nib (v : Nat)
  | byte (b : Nat)
  | instr (code : SourceCode)
  | char (c : Nat)
  | pinit
  | wait (k : WaitKind)
  | frame (f : Nat)
  deriving DecidableEq, Repr

/-- A command of the host's list with the source line it is written on, which a refusal at transcription records
(60_exceptions.md R86). -/
structure SourceCommand where
  line : Nat
  command : Command
  deriving DecidableEq, Repr

/-- The pseudo-instructions of R56. A text is the list of its character codes. `clrLine` takes the line as a number,
because R56 gives a meaning to a line that is neither 1 nor 2. -/
inductive Pseudo where
  | boot
  | clrAll
  | line (l : Line) (text : List Byte)
  | clrLine (l : Nat)
  deriving DecidableEq, Repr

end Sys2Proof
end

