-- ==== Sys2Proof/Config.lean ====
section
/-! DEFINITION. What an implementation fixes (the parameters of 00_scope.md R6) and the free values: the draws of
10_state.md R21 and 60_exceptions.md R95–R101, opaque, so that nothing can be proved of their values. -/

namespace Sys2Proof

/-- `PORT_INIT_SCOPE` (R6, D7). -/
inductive PortInitScope where
  | lcdOnly
  | wholePort
  deriving DecidableEq, Repr

/-- The parameters of R6, all of them open: the model takes them as data, and no meaning fixes one.
`outReg` and `dirReg` are the opaque register identities (R38); `dirOutputValue` is `DIR_OUTPUT_VALUE = 1`;
the last three Booleans are the assumptions of R6 that the launch takes (true) or does not take (false).
`BOOT_ORDER_MET` is no field: it is a premise on the command list (`Machine.bootOrderMet`). -/
structure Config where
  portWidth : Nat
  outReg : Nat
  dirReg : Nat
  rsBit : Nat
  enBit : Nat
  dataShift : Nat
  tSettle : Nat
  tStabPre : Nat
  tStabPost : Nat
  dirOutputValue : Bool
  portInitScope : PortInitScope
  blankCode : Byte
  displayInPhase : Bool
  settleSufficient : Bool
  strobeTimingMet : Bool
  deriving DecidableEq, Repr

/-- The display's address pointer (R98, R99): "the start of the chosen line" and the column offset added to it. DESIGN
CHOICE (notes/assumptions/26.md): R98 calls the pointer opaque; that it is always a line and a 6-bit column, a free one
too, is the model's range. Unsafe. -/
structure DisplayAddr where
  line : Line
  col : BitVec 6
  deriving DecidableEq, Repr, Inhabited

/-- Draw of R96: whether a write that may or may not latch a nibble does latch one. -/
opaque Config.freeLatch : Nat → Bool

/-- Draw of R21, R95 and R96: the level of line `i` where it is undriven, or changed by the latching write. -/
opaque Config.freeLine : Nat → Nat → Bool

/-- Draw of R97 and R98: whether the next latched nibble is a high one, while the phase is unknown. -/
opaque Config.freePhase : Nat → Bool

/-- Draw of R97 and R98: the high half the display already held when its phase was unknown. -/
opaque Config.freeHigh : Nat → Bool × Nibble

/-- Draw of R97: the kind of a frame whose two nibbles were latched under different RS levels. -/
opaque Config.freeKind : Nat → Bool

/-- Draw of R101: whether a line-2 address is accepted while line 1 has not been addressed. -/
opaque Config.freeAccept : Nat → Bool

/-- Draw of R73, R99, R100 and R109: the address pointer where the spec states none. -/
opaque Config.freeAddr : Nat → DisplayAddr

/-- Draw of R51, R99, R100 and R109: whether the display is on where the spec leaves it open. -/
opaque Config.freeOn : Nat → Bool

/-- Draw of R51, R99, R100 and R109: whether the function-set mode is selected where the spec leaves it open. -/
opaque Config.freeFunction : Nat → Bool

/-- Draw of R51, R99, R100 and R109: the character data at the display where the spec leaves it open. -/
opaque Config.freeShown : Nat → List (DisplayAddr × Byte)

end Sys2Proof
end

