-- ==== Sys2Proof/WellFormed.lean ====
section
/-! DEFINITION. Which written commands are well formed (30_encoding.md R52), and which configurations are (00_scope.md
R7 is checked at launch, in Machine/Operands.lean and Machine/Fetch.lean). Operand ranges of `Instr` itself are in its types. -/

namespace Sys2Proof

/-- R52: the operand of `INSTR` is one of the five names; `SETADDR` has line 1 or 2 and a column of at most 63. -/
def SourceCode.wellFormed : SourceCode → Bool
  | .clear => true
  | .home => true
  | .dispon => true
  | .fset => true
  | .setaddr l col => (l == 1 || l == 2) && decide (col ≤ 63)
  | .rawByte _ => false

/-- R57: a frame number is well formed when some row of the opcode table matches it. -/
def frameWellFormed (f : Nat) : Bool :=
  decide (0x80 ≤ f) && decide (f ≤ 0x1FF) || f == 0x01 || f == 0x02 || f == 0x0C || f == 0x28

/-- R52: the operand of each command lies in its range. -/
def Command.wellFormed : Command → Bool
  | .nib v => decide (v ≤ 0xF)
  | .byte b => decide (b ≤ 0xFF)
  | .instr code => code.wellFormed
  | .char c => decide (c ≤ 0xFF)
  | .pinit => true
  | .wait _ => true
  | .frame f => frameWellFormed f

end Sys2Proof
end

