-- ==== Sys2Proof/Decode.lean ====
section
/-! DEFINITION. Transcription of written commands into instructions, refusing by name (30_encoding.md R52); the decoder
of bus frames (R51, R57); the codec's encoding function (41_codec.md R65); the encoder of instructions; the assembler
syntax (R55); the pseudo-instructions' expansions (R56); `decodeTableWord`. -/

namespace Sys2Proof

/-! ## The codec's bytes and the frames -/

/-- R50: `Line1` encodes as `L = 0`, `Line2` as `L = 1`. -/
def lineBit : Line → BitVec 1
  | .line1 => 0#1
  | .line2 => 1#1

/-- R50, R51: the line of an `L` bit. -/
def lineOfBit (b : Bool) : Line := if b then .line2 else .line1

/-- R65: the instruction byte of an Instruction Code. -/
def enc : InstrCode → Byte
  | .clear => 0x01#8
  | .home => 0x02#8
  | .dispon => 0x0C#8
  | .fset => 0x28#8
  | .setaddr l col => 0x80#8 ||| ((lineBit l).setWidth 8 <<< 6) ||| col.setWidth 8

/-- R46: the frame `{RS, B}`. -/
def mkFrame (rs : Bool) (b : Byte) : Frame := BitVec.ofBool rs ++ b

/-- The frame an instruction sends, for the instructions that send one (R46, R47, R49). -/
def frameOf : Instr → Option Frame
  | .clearDisplay => some (mkFrame false (enc .clear))
  | .returnHome => some (mkFrame false (enc .home))
  | .displayOn => some (mkFrame false (enc .dispon))
  | .functionSet => some (mkFrame false (enc .fset))
  | .setAddress l col => some (mkFrame false (enc (.setaddr l col)))
  | .character c => some (mkFrame true c)
  | .sendInstruction code => some (mkFrame false (enc code))
  | .sendCharacter c => some (mkFrame true c)
  | .sendNibble _ => none
  | .sendByte _ => none
  | .portInit => none
  | .wait _ => none

/-- A frame row of the opcode table: `F` matches when `F & mask = pattern` (R57). -/
structure FrameRow where
  mnemonic : String
  pattern : Frame
  mask : Frame
  deriving DecidableEq, Repr

/-- The six frame rows of R57. -/
def frameRows : List FrameRow :=
  [⟨"CLEAR_DISPLAY", 0x001#9, 0x1FF#9⟩, ⟨"RETURN_HOME", 0x002#9, 0x1FF#9⟩, ⟨"DISPLAY_ON", 0x00C#9, 0x1FF#9⟩,
   ⟨"FUNCTION_SET", 0x028#9, 0x1FF#9⟩, ⟨"SET_ADDRESS", 0x080#9, 0x180#9⟩, ⟨"CHARACTER", 0x100#9, 0x100#9⟩]

/-- R57: a row matches a frame. -/
def rowMatches (r : FrameRow) (f : Frame) : Bool := f &&& r.mask == r.pattern

/-- R51: decoding a frame, total on all 512 values; `none` is a frame outside the codec's set. -/
def decodeFrame (f : Frame) : Option Instr :=
  if f.getLsbD 8 then some (.character (f.extractLsb' 0 8))
  else if f.getLsbD 7 then some (.setAddress (lineOfBit (f.getLsbD 6)) (f.extractLsb' 0 6))
  else if f = 0x001#9 then some .clearDisplay
  else if f = 0x002#9 then some .returnHome
  else if f = 0x00C#9 then some .displayOn
  else if f = 0x028#9 then some .functionSet
  else none

/-! ## Transcription -/

/-- Why transcription refuses a command (R52, R86): `REFUSE_INSTR_CODE` or `REFUSE_RANGE`. -/
inductive DecodeError where
  | instrCode
  | range
  deriving DecidableEq, Repr

/-- R52: a line other than `Line1` or `Line2` is out of range. -/
def lineOfNat (l : Nat) : Option Line :=
  if l = 1 then some .line1 else if l = 2 then some .line2 else none

/-- R52: the operand of `INSTR`. A raw byte is never an operand of SEND_INSTRUCTION. DESIGN CHOICE
(notes/assumptions/3.md): a number after `INSTR` is refused with `REFUSE_INSTR_CODE` whatever it is, one above 0xFF too,
which R52 could as well refuse with `REFUSE_RANGE`. Safe. -/
def decodeCode : SourceCode → Except DecodeError InstrCode
  | .clear => .ok .clear
  | .home => .ok .home
  | .dispon => .ok .dispon
  | .fset => .ok .fset
  | .setaddr l col =>
    match lineOfNat l with
    | none => .error .range
    | some ln => if col ≤ 63 then .ok (.setaddr ln (BitVec.ofNat 6 col)) else .error .range
  | .rawByte _ => .error .instrCode

/-- R52, R54: the instruction a written command stands for, or the reason it is refused. Total. -/
def decode : Command → Except DecodeError Instr
  | .nib v => if v ≤ 0xF then .ok (.sendNibble (BitVec.ofNat 4 v)) else .error .range
  | .byte b => if b ≤ 0xFF then .ok (.sendByte (BitVec.ofNat 8 b)) else .error .range
  | .instr code =>
    match decodeCode code with
    | .ok c => .ok (.sendInstruction c)
    | .error e => .error e
  | .char c => if c ≤ 0xFF then .ok (.sendCharacter (BitVec.ofNat 8 c)) else .error .range
  | .pinit => .ok .portInit
  | .wait k => .ok (.wait k)
  | .frame f =>
    if f ≤ 0x1FF then
      match decodeFrame (BitVec.ofNat 9 f) with
      | some i => .ok i
      | none => .error .instrCode
    else .error .range

/-- R48, R50: the written form of an Instruction Code. -/
def encodeCode : InstrCode → SourceCode
  | .clear => .clear
  | .home => .home
  | .dispon => .dispon
  | .fset => .fset
  | .setaddr .line1 col => .setaddr 1 col.toNat
  | .setaddr .line2 col => .setaddr 2 col.toNat

/-- The written command of an instruction: a frame row by its frame (R57), a host command by its own form (R54). -/
def encode : Instr → Command
  | .clearDisplay => .frame (mkFrame false (enc .clear)).toNat
  | .returnHome => .frame (mkFrame false (enc .home)).toNat
  | .displayOn => .frame (mkFrame false (enc .dispon)).toNat
  | .functionSet => .frame (mkFrame false (enc .fset)).toNat
  | .setAddress l col => .frame (mkFrame false (enc (.setaddr l col))).toNat
  | .character c => .frame (mkFrame true c).toNat
  | .sendNibble v => .nib v.toNat
  | .sendByte b => .byte b.toNat
  | .sendInstruction code => .instr (encodeCode code)
  | .sendCharacter c => .char c.toNat
  | .portInit => .pinit
  | .wait k => .wait k

/-- The instruction the decoder reads from a table word: the frame is the low `nbits` bits of `w` (R46: `F[8]` is RS,
`F[7:0]` the byte). Host commands have no bit encoding (R43), so no word decodes to one. -/
def decodeTableWord (nbits w : Nat) : Option Instr :=
  match decode (.frame (w % 2 ^ nbits)) with
  | .ok i => some i
  | .error _ => none

/-! ## Assembler text -/

/-- A blank inside a line. -/
def isBlank (c : Char) : Bool := c == ' ' || c == '\t' || c == '\r' || c == '\n'

/-- The words of a line, commas being words of their own; `cur` is the word being read, its last letter first. -/
def lexWords : List Char → List Char → List (List Char)
  | [], [] => []
  | [], cur => [cur.reverse]
  | c :: cs, cur =>
    let flush := match cur with
      | [] => []
      | _ => [cur.reverse]
    if isBlank c then flush ++ lexWords cs []
    else if c == ',' then flush ++ [','] :: lexWords cs []
    else lexWords cs (c :: cur)

/-- R55: `;` starts a comment. -/
def stripComment (cs : List Char) : List Char := cs.takeWhile (fun c => c != ';')

/-- The value of a digit below `base`. -/
def digitOf (base : Nat) (c : Char) : Option Nat :=
  let n := c.toNat
  let v := if 48 ≤ n && n ≤ 57 then n - 48
    else if 65 ≤ n && n ≤ 70 then n - 55
    else if 97 ≤ n && n ≤ 102 then n - 87
    else 16
  if v < base then some v else none

/-- The number of a digit string, most significant digit first. -/
def digitsOf (base : Nat) : List Char → Nat → Option Nat
  | [], acc => some acc
  | c :: cs, acc =>
    match digitOf base c with
    | none => none
    | some d => digitsOf base cs (acc * base + d)

/-- R55: `imm ::= decimal | "0x" hex`. -/
def immOf (w : List Char) : Option Nat :=
  match w with
  | [] => none
  | '0' :: 'x' :: d :: ds => digitsOf 16 (d :: ds) 0
  | c :: cs => digitsOf 10 (c :: cs) 0

/-- R55: `line ::= "L1" | "L2"`. DESIGN CHOICE (notes/assumptions/22.md): another number after `L`, written without
leading zeros, is read too, so that R52 refuses it as out of range; `L01` is no sentence. Safe. -/
def lineWordOf (w : List Char) : Option Nat :=
  match w with
  | 'L' :: d :: ds => if d == '0' && !ds.isEmpty then none else digitsOf 10 (d :: ds) 0
  | _ => none

/-- R55: `wkind`. -/
def waitWordOf (w : List Char) : Option WaitKind :=
  if w = ['S', 'E', 'T', 'T', 'L', 'E'] then some .settle
  else if w = ['S', 'T', 'A', 'B', '_', 'P', 'R', 'E'] then some .stabPre
  else if w = ['S', 'T', 'A', 'B', '_', 'P', 'O', 'S', 'T'] then some .stabPost
  else none

/-- R55: `icode`. A number in its place is a raw instruction byte, which R52 refuses. -/
def codeWordOf (w : List Char) : Option SourceCode :=
  if w = ['C', 'L', 'E', 'A', 'R'] then some .clear
  else if w = ['H', 'O', 'M', 'E'] then some .home
  else if w = ['D', 'I', 'S', 'P', 'O', 'N'] then some .dispon
  else if w = ['F', 'S', 'E', 'T'] then some .fset
  else (immOf w).map .rawByte

/-- R55: a command of two words. -/
def twoWords (op arg : List Char) : Option Command :=
  if op = ['N', 'I', 'B'] then (immOf arg).map .nib
  else if op = ['B', 'Y', 'T', 'E'] then (immOf arg).map .byte
  else if op = ['C', 'H', 'A', 'R'] then (immOf arg).map .char
  else if op = ['I', 'N', 'S', 'T', 'R'] then (codeWordOf arg).map .instr
  else if op = ['W', 'A', 'I', 'T'] then (waitWordOf arg).map .wait
  else none

/-- R55: the command the words of a line spell; `none` where they are not a sentence of the grammar. -/
def commandOfWords : List (List Char) → Option Command
  | [op] => if op = ['P', 'I', 'N', 'I', 'T'] then some .pinit else none
  | [op, arg] => twoWords op arg
  | [op, arg, l, comma, n] =>
    if op = ['I', 'N', 'S', 'T', 'R'] ∧ arg = ['S', 'E', 'T', 'A', 'D', 'D', 'R'] ∧ comma = [','] then
      match lineWordOf l, immOf n with
      | some ln, some col => some (.instr (.setaddr ln col))
      | _, _ => none
    else none
  | _ => none

/-- R55: one command per line; the first of the lines is source line `n`. A line with no words (a blank line, a
comment) holds no command, but it counts as a line. `none` where some line is not a sentence of the grammar. -/
def assembleFrom (n : Nat) : List (List Char) → Option (List SourceCommand)
  | [] => some []
  | l :: ls =>
    match lexWords (stripComment l) [] with
    | [] => assembleFrom (n + 1) ls
    | w :: ws =>
      match commandOfWords (w :: ws), assembleFrom (n + 1) ls with
      | some c, some cs => some (⟨n, c⟩ :: cs)
      | _, _ => none

/-- R55: a text; its lines are counted from 1 (notes/assumptions/22.md). -/
def assemble (ls : List (List Char)) : Option (List SourceCommand) := assembleFrom 1 ls

/-- A list of commands written one to a line, from source line `n` on. -/
def numbered (n : Nat) : List Command → List SourceCommand
  | [] => []
  | c :: cs => ⟨n, c⟩ :: numbered (n + 1) cs

/-! ## Pseudo-instructions -/

/-- R56, `t[i]`: the code of character `i` of the text, or the blank code past its end, for `i` in 0..15. -/
def paddedText (blank : Byte) (text : List Byte) : List Byte :=
  (List.range 16).map (fun i => text.getD i blank)

/-- R56: a line of sixteen characters. -/
def charCommands (blank : Byte) (text : List Byte) : List Command :=
  (paddedText blank text).map (fun b => Command.char b.toNat)

/-- R56, `LINE l, s`: the address instruction of line 1, that of line 2 after it where line 2 is asked for (the
workaround of R113), and the sixteen characters. -/
def lineCommands (blank : Byte) (l : Line) (text : List Byte) : List Command :=
  match l with
  | .line1 => .instr (.setaddr 1 0) :: charCommands blank text
  | .line2 => .instr (.setaddr 1 0) :: .instr (.setaddr 2 0) :: charCommands blank text

/-- R56, R107: the `BOOT` expansion. -/
def bootCommands : List Command :=
  [.wait .stabPre, .pinit, .instr .fset, .instr .dispon, .instr .home, .instr .clear, .wait .stabPost]

/-- R56: the expansion of a pseudo-instruction; `blank` is `BLANK_CODE`. -/
def expand (blank : Byte) : Pseudo → List Command
  | .boot => bootCommands
  | .clrAll => [.instr .clear]
  | .line l text => lineCommands blank l text
  | .clrLine l =>
    match lineOfNat l with
    | some ln => lineCommands blank ln []
    | none => []

end Sys2Proof
end

