-- ==== Sys2Proof/Machine/State.lean ====
section
/-! DEFINITION. The state of the machine as plain data: the transmitter's state (10_state.md R14), the launch data it is
run with (configuration, command list, callers), and the display agent's state (60_exceptions.md R98). -/

namespace Sys2Proof.Machine

/-- R24: the events of the trace. Port words are the full `PORT_WIDTH`-bit value written. -/
inductive Event where
  | outW (v : PortWord)
  | dirW (v : PortWord)
  | waitE (k : WaitKind)
  deriving DecidableEq, Repr

/-- R96: what the display latches at a falling edge of EN: the RS level and the data levels. -/
structure Latch where
  rs : Bool
  nib : Nibble
  deriving DecidableEq, Repr

/-- R98 `phase`: whether the next latched nibble is a high or a low one. In `low`, the high nibble already latched is
kept, with the mark whether it came early (R100). `unknown` is an unspecified phase (R97, R98): the next latch draws. -/
inductive Phase where
  | unknown
  | high
  | low (hi : Latch) (early : Bool)
  deriving DecidableEq, Repr

/-- R97, R100, R111: a received frame, and whether it counts as settled with a sufficient settling delay. -/
structure Received where
  frame : Frame
  settled : Bool
  deriving DecidableEq, Repr

/-- The display agent (R94–R101). `phase`, `addr`, `line1Addressed` and `busy` are the hidden state of R98 (`busy`: the
display may still be executing the last frame, notes/assumptions/12.md). `on`, `functionSet` and `shown` are the meanings of R99: the display was
turned on, the mode of function-set was selected, and the character data put at the display since it was last cleared,
each with the address pointer it was put under. `latches` and `received` are the model's record of what was latched and
received; `frameSeen` says whether the run's first frame has been sent (R97, notes/assumptions/11.md). -/
structure Display where
  phase : Phase
  addr : DisplayAddr
  line1Addressed : Bool
  busy : Bool
  on : Bool
  functionSet : Bool
  shown : List (DisplayAddr × Byte)
  latches : List Latch
  received : List Received
  frameSeen : Bool
  deriving DecidableEq, Repr

/-- What a run is launched with: the parameters of R6, the command list (R42) and the number of callers (R93). -/
structure Launch where
  cfg : Config
  program : List SourceCommand
  callers : Nat
  deriving DecidableEq, Repr

/-- The faults of R86. -/
inductive Fault where
  /-- `UNINIT`, with the command and the `pc` it was stepped at (R88). Raised by the ten transfers while `ready` is
  false, as the sticky mark of the next state; every step from a marked state answers it. Safe: the chip does
  something undefined there, and the model gives it no meaning (R86). -/
  | uninit (command : Instr) (pc : Nat)
  deriving DecidableEq, Repr

/-- The refusals of R86, and the end of a run. -/
inductive Refusal where
  /-- An arm of `exec` that has no meaning yet. No arm answers it now. Safe. -/
  | notModelled (mnemonic : String)
  /-- `REFUSE_INSTR_CODE`, with the source line: the command of that line names a byte outside the codec's set. Raised
  by `step` when it transcribes the list. Safe. -/
  | refuseInstrCode (line : Nat)
  /-- `REFUSE_RANGE`, with the source line: the command of that line has an operand outside its range. Raised by `step`
  when it transcribes the list. Safe. -/
  | refuseRange (line : Nat)
  /-- `REFUSE_CONCURRENT`, with the launch: a launch with more than one caller. Raised by `step`. Safe. -/
  | refuseConcurrent (launch : Launch)
  /-- `REFUSE_CONFIG`, with the parameter set: a launch whose parameters break R7. Raised by `step`. Safe. -/
  | refuseConfig (c : Config)
  /-- The list holds no command at `pc`: the run has ended (R105) and there is nothing to step. Raised by `step`.
  Safe. -/
  | endOfRun (pc : Nat)
  deriving DecidableEq, Repr

/-- The machine. `out`, `dirOut`, `ready`, `fault`, `trace` and `pc` are the transmitter's state (R14). `cfg`,
`program` and `callers` are what a run is launched with (R6, R42, R93); no instruction changes them. `display` is the
second agent (R94). `draws` counts the register writes the display has seen: the model's own field, the index of the
free values. -/
structure State where
  out : PortWord
  dirOut : PortWord
  ready : Bool
  fault : Option Fault
  trace : List Event
  pc : Nat
  cfg : Config
  program : List SourceCommand
  callers : Nat
  display : Display
  draws : Nat
  deriving DecidableEq, Repr

/-- The launch a state runs under. -/
def State.launch (s : State) : Launch := ⟨s.cfg, s.program, s.callers⟩

/-- The display at power-up (R98, R101): phase unknown, possibly busy, line 1 not addressed; the fields whose value R98
leaves unspecified hold a named value (notes/assumptions/7.md). -/
def Display.powerUp : Display where
  phase := .unknown
  addr := ⟨.line1, 0#6⟩
  line1Addressed := false
  busy := true
  on := false
  functionSet := false
  shown := []
  latches := []
  received := []
  frameSeen := false

/-- R27, R106: the machine at power-up, for a launch with configuration `c` and command list `p` by one caller, and for
the drawn register values `o` and `d`. -/
def State.powerUp (c : Config) (p : List SourceCommand) (o d : PortWord) : State where
  out := o
  dirOut := d
  ready := false
  fault := none
  trace := []
  pc := 0
  cfg := c
  program := p
  callers := 1
  display := Display.powerUp
  draws := 0

/-- The configuration `State.reset` is launched with: `TCFG` (R9), the one the spec shows values for, with no
assumption about the display taken (notes/assumptions/2.md). No meaning and no statement rests on it. -/
def launchConfig : Config where
  portWidth := 8
  outReg := 0
  dirReg := 1
  rsBit := 0
  enBit := 1
  dataShift := 4
  tSettle := 0
  tStabPre := 0
  tStabPost := 0
  dirOutputValue := true
  portInitScope := .lcdOnly
  blankCode := 0x20#8
  displayInPhase := false
  settleSufficient := false
  strobeTimingMet := false

/-- R106: the machine right after reset, with no command loaded. `OUT` and `dir_out` are draws in the spec; reset holds
the values of the power-up instance of 95_test_vectors.md §3 (notes/assumptions/1.md). -/
def State.reset : State := State.powerUp launchConfig [] 0 0

end Sys2Proof.Machine
end

