-- ==== Sys2Proof/Machine/Operands.lean ====
section
/-! DEFINITION. Operand assembly: bitwise arithmetic at `PORT_WIDTH` bits (00_scope.md R10), the masks (R8), the nibble
split and the placement on the data lines (30_encoding.md R50). -/

namespace Sys2Proof.Machine

/-- R10: bitwise OR at `w` bits. -/
def wordOr (w : Nat) (a b : PortWord) : PortWord := (BitVec.ofNat w a ||| BitVec.ofNat w b).toNat

/-- R10, R31: `a & ~m` at `w` bits. -/
def wordAndNot (w : Nat) (a m : PortWord) : PortWord := (BitVec.ofNat w a &&& ~~~ BitVec.ofNat w m).toNat

/-- R10: `~a` at `w` bits. -/
def wordNot (w : Nat) (a : PortWord) : PortWord := (~~~ BitVec.ofNat w a).toNat

/-- All `w` bits set. -/
def allOnes (w : Nat) : PortWord := (BitVec.allOnes w).toNat

/-- R8: `RS_M = 1 << RS_BIT`. -/
def rsM (c : Config) : PortWord := (BitVec.ofNat c.portWidth 1 <<< c.rsBit).toNat

/-- R8: `EN_M = 1 << EN_BIT`. -/
def enM (c : Config) : PortWord := (BitVec.ofNat c.portWidth 1 <<< c.enBit).toNat

/-- R8: `D_M = 0xF << DATA_SHIFT`. -/
def dataM (c : Config) : PortWord := (BitVec.ofNat c.portWidth 0xF <<< c.dataShift).toNat

/-- R8: `LCD_M = RS_M | EN_M | D_M`. -/
def lcdM (c : Config) : PortWord := wordOr c.portWidth (wordOr c.portWidth (rsM c) (enM c)) (dataM c)

/-- R8: `OTHER_M = ~LCD_M`. -/
def otherM (c : Config) : PortWord := wordNot c.portWidth (lcdM c)

/-- R50: a nibble on the data lines, `zext_PORT_WIDTH(v) << DATA_SHIFT`. -/
def placeNibble (c : Config) (v : Nibble) : PortWord := (v.setWidth c.portWidth <<< c.dataShift).toNat

/-- R50: `hi = b[7:4]`. -/
def hiNibble (b : Byte) : Nibble := b.extractLsb' 4 4

/-- R50: `lo = b[3:0]`. -/
def loNibble (b : Byte) : Nibble := b.extractLsb' 0 4

/-- R21: the value `DIR_REG` holds for a `dir_out`, by the polarity `DIR_OUTPUT_VALUE`. -/
def dirRegister (c : Config) (d : PortWord) : PortWord :=
  if c.dirOutputValue then d else wordNot c.portWidth d

/-- R7: the constraints on the wiring. -/
def configValid (c : Config) : Bool :=
  decide (c.dataShift + 3 < c.portWidth) && decide (c.rsBit < c.portWidth) && decide (c.enBit < c.portWidth)
    && decide (c.rsBit ≠ c.enBit)
    && decide (¬ (c.dataShift ≤ c.rsBit ∧ c.rsBit ≤ c.dataShift + 3))
    && decide (¬ (c.dataShift ≤ c.enBit ∧ c.enBit ≤ c.dataShift + 3))

/-- R6, R82: the duration `T_k` of a delay of kind `k`. No step reads it. -/
def waitDuration (c : Config) : WaitKind → Nat
  | .settle => c.tSettle
  | .stabPre => c.tStabPre
  | .stabPost => c.tStabPost

end Sys2Proof.Machine
end

