-- ==== Sys2Proof/Machine/Flags.lean ====
section
/-! DEFINITION. The transmitter has no flags and no condition codes (10_state.md R15). What it has of single-bit fields
are the lines of `OUT` (R16–R19): this file reads them, and the 6-bit pin word of 30_encoding.md R44. -/

namespace Sys2Proof.Machine

/-- R17: the register-select bit of a value of `OUT`. -/
def rsBitOf (c : Config) (o : PortWord) : Bool := o.testBit c.rsBit

/-- R18: the enable-strobe bit of a value of `OUT`. -/
def enBitOf (c : Config) (o : PortWord) : Bool := o.testBit c.enBit

/-- Four line levels as a nibble, bit 0 first (R19). -/
def nibbleOfBits (b0 b1 b2 b3 : Bool) : Nibble :=
  BitVec.ofBool b3 ++ BitVec.ofBool b2 ++ BitVec.ofBool b1 ++ BitVec.ofBool b0

/-- R19: the data field of a value of `OUT`: bit `i` of the nibble is `OUT[DATA_SHIFT + i]`. -/
def dataOf (c : Config) (o : PortWord) : Nibble :=
  nibbleOfBits (o.testBit c.dataShift) (o.testBit (c.dataShift + 1)) (o.testBit (c.dataShift + 2))
    (o.testBit (c.dataShift + 3))

/-- R44: the pin word `P` of a value of `OUT`, data lines first, then EN, then RS. -/
def pinWord (c : Config) (o : PortWord) : BitVec 6 :=
  dataOf c o ++ BitVec.ofBool (enBitOf c o) ++ BitVec.ofBool (rsBitOf c o)

end Sys2Proof.Machine
end

