-- ==== Sys2Proof/Machine/Display.lean ====
section
/-! DEFINITION. The display agent: what it sees of the pins, what it latches, and what it does with the frames it
receives (60_exceptions.md R94–R101). Draws are the free values of Config.lean at the index `n`. -/

namespace Sys2Proof.Machine

/-- R95: the level of line `i`: the bit of `OUT` where the line is driven, else a draw. -/
def lineLevel (n : Nat) (out dir : PortWord) (i : Nat) : Bool :=
  if dir.testBit i then out.testBit i else Config.freeLine n i

/-- R96: the level latched for line `i` by a write that takes `(out, dir)` to `(out', dir')`: the level after it where
the write does not change the line, else a draw. -/
def sampleLine (n : Nat) (out dir out' dir' : PortWord) (i : Nat) : Bool :=
  if out.testBit i = out'.testBit i ∧ dir.testBit i = dir'.testBit i then lineLevel n out' dir' i
  else Config.freeLine n i

/-- R96: the value a write latches, if it latches. -/
def sampleLatch (c : Config) (n : Nat) (out dir out' dir' : PortWord) : Latch where
  rs := sampleLine n out dir out' dir' c.rsBit
  nib := nibbleOfBits (sampleLine n out dir out' dir' c.dataShift) (sampleLine n out dir out' dir' (c.dataShift + 1))
    (sampleLine n out dir out' dir' (c.dataShift + 2)) (sampleLine n out dir out' dir' (c.dataShift + 3))

/-- R96: whether a write latches a nibble: at a falling edge of a driven EN; a draw where EN is undriven before or after
the write, or newly driven by it. DEDUCED (notes/assumptions/27.md): the latch at a falling edge is certain in a write
that also changes RS or D, as R96 words it, where R118 and program P1's variant say that the display may latch.
Unsafe. -/
def latchHappens (c : Config) (n : Nat) (out dir out' dir' : PortWord) : Bool :=
  if dir.testBit c.enBit && dir'.testBit c.enBit then enBitOf c out && !enBitOf c out'
  else Config.freeLatch n

/-- R51, R99, R100, R109: the pointer, the two marks and the character data where the spec leaves open what becomes of
them. The line-1 history changes only by a settled address frame and by PORT_INIT (R101), and the phase only by latches
(R97, R112). -/
def unspecifiedEffect (n : Nat) (d : Display) : Display :=
  { d with addr := Config.freeAddr n, on := Config.freeOn n, functionSet := Config.freeFunction n,
           shown := Config.freeShown n }

/-- R99, R101: a received set-address frame. Column 0 is the start of the line. The pointer after any other column is any
value, as 93_implementation_defined.md rules (R73; notes/assumptions/14.md). -/
def setAddressEffect (n : Nat) (l : Line) (col : BitVec 6) (d : Display) : Display :=
  let target : DisplayAddr := if col = 0#6 then ⟨l, col⟩ else Config.freeAddr n
  match l with
  | .line1 => { d with addr := target, line1Addressed := true }
  | .line2 =>
    { d with addr := if d.line1Addressed || Config.freeAccept n then target else d.addr }

/-- R99: a received character frame puts its code at the display; whether and how the pointer moves on is not stated. -/
def characterEffect (n : Nat) (code : Byte) (d : Display) : Display :=
  { d with shown := d.shown ++ [(d.addr, code)], addr := Config.freeAddr n }

/-- R69, R99: clear-display clears the whole display; where it leaves the address pointer is not stated. -/
def clearEffect (n : Nat) (d : Display) : Display :=
  { d with shown := [], addr := Config.freeAddr n }

/-- R51, R99: the meaning of a settled frame. Return-home is named only (R70), and a frame outside the codec's set has
no stated effect, so both are open. -/
def frameEffect (n : Nat) (f : Frame) (d : Display) : Display :=
  match decodeFrame f with
  | some .clearDisplay => clearEffect n d
  | some .displayOn => { d with on := true }
  | some .functionSet => { d with functionSet := true }
  | some (.setAddress l col) => setAddressEffect n l col d
  | some (.character code) => characterEffect n code d
  | _ => unspecifiedEffect n d

/-- R97, R100: two latched nibbles make a frame, high nibble first. Under unequal RS levels its kind is a draw. The
frame is settled unless its first latch came early; an early frame's effect is a draw. The display is busy after it. -/
def receiveFrame (n : Nat) (hi lo : Latch) (early : Bool) (d : Display) : Display :=
  let rs := if hi.rs = lo.rs then lo.rs else Config.freeKind n
  let f : Frame := mkFrame rs (hi.nib ++ lo.nib)
  let d' := { d with received := d.received ++ [⟨f, !early⟩], busy := true, phase := .high }
  if early then unspecifiedEffect n d' else frameEffect n f d'

/-- R96, R97: the display latches one nibble. In an unknown phase a draw says whether it is a high one; if it is a low
one, the high half is a draw too, and the frame counts as unsettled. -/
def latchNibble (n : Nat) (l : Latch) (d : Display) : Display :=
  let d' := { d with latches := d.latches ++ [l] }
  match d.phase with
  | .high => { d' with phase := .low l d.busy }
  | .low hi early => receiveFrame n hi l early d'
  | .unknown =>
    if Config.freePhase n then { d' with phase := .low l d.busy }
    else receiveFrame n ⟨(Config.freeHigh n).1, (Config.freeHigh n).2⟩ l true d'

/-- R95, R96: the display sees one register write. -/
def seeWrite (c : Config) (n : Nat) (out dir out' dir' : PortWord) (d : Display) : Display :=
  if latchHappens c n out dir out' dir' then latchNibble n (sampleLatch c n out dir out' dir') d else d

/-- R100, R111: a settling delay ends the busy time of the last frame where `SETTLE_SUFFICIENT` holds. The other delays
settle nothing (R100). -/
def seeWait (c : Config) (k : WaitKind) (d : Display) : Display :=
  match k with
  | .settle => if c.settleSufficient then { d with busy := false } else d
  | .stabPre => d
  | .stabPost => d

/-- R97: a frame begins. Under `DISPLAY_IN_PHASE` (taken with the boot premise of R114) the first latch of the run's first
frame, the one after the boot's PORT_INIT, is a high nibble: a half byte that the power-up strobe (R118) left pending is
dropped unpaired, which is the model's reading of the assumption against R36. Later frames leave the phase alone (R112).
DESIGN CHOICE (notes/assumptions/11.md). -/
def seeFrameStart (inPhase : Bool) (d : Display) : Display :=
  if d.frameSeen then d
  else { d with frameSeen := true, phase := if inPhase then .high else d.phase }

/-- R101, R109: PORT_INIT forgets the line-1 history and is destructive to the display's content. R80 says that it sends
no frame, so what it leaves of the content, the pointer and the marks is open: free values. DESIGN CHOICE
(notes/assumptions/25.md), safe. It restores no phase (R112): a pending half byte stays pending (R36). -/
def seePortInit (n : Nat) (d : Display) : Display :=
  { unspecifiedEffect n d with line1Addressed := false }

end Sys2Proof.Machine
end

