-- ==== Sys2Proof/Machine/Ops.lean ====
section
/-! DEFINITION. The shared operations: the register-access primitives (00_scope.md R11, 20_memory.md R31), delays, fault
entry (60_exceptions.md R88), the nibble, byte and frame bodies (R60, R61, R67, R68), and the ways a command completes. -/

namespace Sys2Proof.Machine

/-- The two registers of the pin-register space (R29). -/
inductive PinReg where
  | out
  | dir
  deriving DecidableEq, Repr

/-- R6, R38: the opaque build-time identity of a register. Nothing computes with it. -/
def regIdentity (c : Config) : PinReg → Nat
  | .out => c.outReg
  | .dir => c.dirReg

/-- R11: `MemRead` returns the latch, the value last written. For `DIR_REG` that is the register's own value (R21). -/
def memRead (r : PinReg) (s : State) : PortWord :=
  match r with
  | .out => s.out
  | .dir => dirRegister s.cfg s.dirOut

/-- R11, R24, R30: `MemWrite` of `OUT_REG`: one write, one event, seen by the display at once. -/
def writeOut (v : PortWord) (s : State) : State :=
  { s with out := v, trace := s.trace ++ [.outW v], draws := s.draws + 1,
           display := seeWrite s.cfg s.draws s.out s.dirOut v s.dirOut s.display }

/-- R11, R21, R24: `MemWrite` of `DIR_REG`, given by `dir_out`. -/
def writeDir (v : PortWord) (s : State) : State :=
  { s with dirOut := v, trace := s.trace ++ [.dirW v], draws := s.draws + 1,
           display := seeWrite s.cfg s.draws s.out s.dirOut s.out v s.display }

/-- R11, R31: `PinSet(m)`. -/
def pinSet (m : PortWord) (s : State) : State := writeOut (wordOr s.cfg.portWidth (memRead .out s) m) s

/-- R11, R31: `PinClr(m)`. -/
def pinClr (m : PortWord) (s : State) : State := writeOut (wordAndNot s.cfg.portWidth (memRead .out s) m) s

/-- R11: `DirOut(m)` makes the lines of `m` outputs and leaves the others. -/
def dirOutput (m : PortWord) (s : State) : State := writeDir (wordOr s.cfg.portWidth s.dirOut m) s

/-- R11, R81: `Wait(k)` appends its event; it changes no pin. -/
def waitFor (k : WaitKind) (s : State) : State :=
  { s with trace := s.trace ++ [.waitE k], display := seeWait s.cfg k s.display }

/-- R25: a command that completes advances `pc` by one. -/
def advance (s : State) : State := { s with pc := s.pc + 1 }

/-- R88: fault entry. The mark records the command and `pc`; nothing else changes. There is no return from it (R89). -/
def raiseUninit (i : Instr) (s : State) : State := { s with fault := some (.uninit i s.pc) }

/-- R23, R89: no command steps from a faulted state. -/
def unlessFaulted (s : State) (k : Host.Outcome State Fault Refusal) : Host.Outcome State Fault Refusal :=
  match s.fault with
  | some f => .fault f
  | none => k

/-- R86, R87: a transfer faults with `UNINIT`, before any event, while `ready` is false; else its body runs and `pc`
advances. -/
def transfer (i : Instr) (body : State → State) (s : State) : Host.Outcome State Fault Refusal :=
  unlessFaulted s (if s.ready then .next (advance (body s)) else .next (raiseUninit i s))

/-- R81, R80: a command with no step-time fault. -/
def always (body : State → State) (s : State) : Host.Outcome State Fault Refusal :=
  unlessFaulted s (.next (advance (body s)))

/-- R60: the body of SEND_NIBBLE. -/
def nibbleBody (v : Nibble) (s : State) : State :=
  let s1 := pinSet (enM s.cfg) s
  let s2 := pinSet (placeNibble s.cfg v) s1
  let s3 := pinClr (enM s.cfg) s2
  pinClr (dataM s.cfg) s3

/-- R61: the body of SEND_BYTE, high nibble first (R34, R35). -/
def byteBody (b : Byte) (s : State) : State := nibbleBody (loNibble b) (nibbleBody (hiNibble b) s)

/-- R67, R68: the register-select write of a frame. -/
def writeRs (rs : Bool) (s : State) : State := if rs then pinSet (rsM s.cfg) s else pinClr (rsM s.cfg) s

/-- R107, R114: `BOOT_ORDER_MET`, the premise that the run begins with the `BOOT` expansion. -/
def bootOrderMet (s : State) : Bool := bootCommands.isPrefixOf (s.program.map (fun c => c.command))

/-- R97, R114: a frame begins at the display. -/
def startFrame (s : State) : State :=
  { s with display := seeFrameStart (s.cfg.displayInPhase && bootOrderMet s) s.display }

/-- R46, R67, R68: the body of a frame: the settling delay, the RS write, and the byte. -/
def frameBody (rs : Bool) (b : Byte) (s : State) : State :=
  byteBody b (startFrame (writeRs rs (waitFor .settle s)))

/-- R80: the two register writes of PORT_INIT, by `PORT_INIT_SCOPE`. -/
def portInitWrites (s : State) : State :=
  match s.cfg.portInitScope with
  | .lcdOnly => pinClr (lcdM s.cfg) (dirOutput (lcdM s.cfg) s)
  | .wholePort => writeOut 0 (dirOutput (allOnes s.cfg.portWidth) s)

/-- R80, R101, R109: the body of PORT_INIT. What it leaves of the display's content is drawn at the index of its second
write. -/
def portInitBody (s : State) : State :=
  let t := portInitWrites s
  { t with ready := true, display := seePortInit (s.draws + 1) t.display }

end Sys2Proof.Machine
end

