-- ==== Sys2Proof/Machine/Codec.lean ====
section
/-! DEFINITION. The Instruction/Character Codec family (41_codec.md): SEND_INSTRUCTION, SEND_CHARACTER, and the frame
rows of the opcode table, each of which is the codec operation that sends its frame. -/

namespace Sys2Proof.Machine

/-- R67: SEND_INSTRUCTION. -/
def execSendInstruction (code : InstrCode) (s : State) : Host.Outcome State Fault Refusal :=
  transfer (.sendInstruction code) (frameBody false (enc code)) s

/-- R68: SEND_CHARACTER. -/
def execSendCharacter (c : Byte) (s : State) : Host.Outcome State Fault Refusal :=
  transfer (.sendCharacter c) (frameBody true c) s

/-- R69: CLEAR_DISPLAY. -/
def execClearDisplay (s : State) : Host.Outcome State Fault Refusal :=
  transfer .clearDisplay (frameBody false (enc .clear)) s

/-- R70: RETURN_HOME. -/
def execReturnHome (s : State) : Host.Outcome State Fault Refusal :=
  transfer .returnHome (frameBody false (enc .home)) s

/-- R71: DISPLAY_ON. -/
def execDisplayOn (s : State) : Host.Outcome State Fault Refusal :=
  transfer .displayOn (frameBody false (enc .dispon)) s

/-- R72: FUNCTION_SET. -/
def execFunctionSet (s : State) : Host.Outcome State Fault Refusal :=
  transfer .functionSet (frameBody false (enc .fset)) s

/-- R73: SET_ADDRESS. -/
def execSetAddress (l : Line) (col : BitVec 6) (s : State) : Host.Outcome State Fault Refusal :=
  transfer (.setAddress l col) (frameBody false (enc (.setaddr l col))) s

/-- R49, R68: CHARACTER, the frame row of SEND_CHARACTER. -/
def execCharacter (c : Byte) (s : State) : Host.Outcome State Fault Refusal :=
  transfer (.character c) (frameBody true c) s

end Sys2Proof.Machine
end

