-- ==== Sys2Proof/Machine/PortControl.lean ====
section
/-! DEFINITION. The port control family (42_port_control.md): PORT_INIT and WAIT, which have no step-time fault. -/

namespace Sys2Proof.Machine

/-- R80: PORT_INIT. -/
def execPortInit (s : State) : Host.Outcome State Fault Refusal := always portInitBody s

/-- R81: WAIT. -/
def execWait (k : WaitKind) (s : State) : Host.Outcome State Fault Refusal := always (waitFor k) s

end Sys2Proof.Machine
end

