-- ==== Sys2Proof/Machine/Transmitter.lean ====
section
/-! DEFINITION. The Bus Transmitter family (40_bus_transmitter.md): SEND_NIBBLE and SEND_BYTE. -/

namespace Sys2Proof.Machine

/-- R60: SEND_NIBBLE. -/
def execSendNibble (v : Nibble) (s : State) : Host.Outcome State Fault Refusal :=
  transfer (.sendNibble v) (nibbleBody v) s

/-- R61, R58: SEND_BYTE, under the RS level `OUT` already holds, with no delay. -/
def execSendByte (b : Byte) (s : State) : Host.Outcome State Fault Refusal :=
  transfer (.sendByte b) (byteBody b) s

end Sys2Proof.Machine
end

