-- ==== Sys2Proof/Machine/Dispatch.lean ====
section
/-! DEFINITION. One arm per instruction, each a direct call of its meaning. -/

namespace Sys2Proof.Machine

def exec (i : Instr) (s : State) : Host.Outcome State Fault Refusal :=
  match i with
  | .clearDisplay => Sys2Proof.Machine.execClearDisplay s
  | .returnHome => Sys2Proof.Machine.execReturnHome s
  | .displayOn => Sys2Proof.Machine.execDisplayOn s
  | .functionSet => Sys2Proof.Machine.execFunctionSet s
  | .setAddress l col => Sys2Proof.Machine.execSetAddress l col s
  | .character c => Sys2Proof.Machine.execCharacter c s
  | .sendNibble v => Sys2Proof.Machine.execSendNibble v s
  | .sendByte b => Sys2Proof.Machine.execSendByte b s
  | .sendInstruction code => Sys2Proof.Machine.execSendInstruction code s
  | .sendCharacter c => Sys2Proof.Machine.execSendCharacter c s
  | .portInit => Sys2Proof.Machine.execPortInit s
  | .wait k => Sys2Proof.Machine.execWait k s

end Sys2Proof.Machine
end

