-- ==== Sys2Proof/Machine/Fetch.lean ====
section
/-! DEFINITION. Launch checks, transcription of the command list, and fetching the command at `pc`
(60_exceptions.md R86, R87; 10_state.md R25; 20_memory.md R42). -/

namespace Sys2Proof.Machine

/-- R86, R87: what refuses a launch: parameters that break R7, then a second caller. -/
def launchRefusal (s : State) : Option Refusal :=
  if !configValid s.cfg then some (.refuseConfig s.cfg)
  else if 1 < s.callers then some (.refuseConcurrent s.launch)
  else none

/-- R86: the refusal of the command of a source line. -/
def transcribeRefusal (line : Nat) : DecodeError → Refusal
  | .instrCode => .refuseInstrCode line
  | .range => .refuseRange line

/-- R52, R87: transcription of a command list: the instructions, or the refusal of the first bad command in list order,
with its source line (R86). -/
def transcribe : List SourceCommand → Except Refusal (List Instr)
  | [] => .ok []
  | c :: cs =>
    match decode c.command with
    | .error e => .error (transcribeRefusal c.line e)
    | .ok i =>
      match transcribe cs with
      | .error r => .error r
      | .ok is => .ok (i :: is)

/-- R25, R87, R105: the instruction at `pc`, once the launch and the transcription of the whole list pass; at the end of
the list there is none. -/
def fetch (s : State) : Except Refusal Instr :=
  match launchRefusal s with
  | some r => .error r
  | none =>
    match transcribe s.program with
    | .error r => .error r
    | .ok is =>
      match is[s.pc]? with
      | some i => .ok i
      | none => .error (.endOfRun s.pc)

/-- A command list that holds one table word at place `pc`: what `withFetchWord` loads. The places before it, which no
step reads, hold a delay. -/
def programWithWord (pc nbits w : Nat) : List SourceCommand :=
  numbered 1 (List.replicate pc (.wait .settle) ++ [.frame (w % 2 ^ nbits)])

end Sys2Proof.Machine
end

