-- ==== Sys2Proof/Machine/Step.lean ====
section
/-! DEFINITION. One step of the caller: a faulted state has none (60_exceptions.md R89); else the command at `pc` is
fetched and run. -/

namespace Sys2Proof.Machine

/-- R12, R25, R87, R89: one command is one step. -/
def step (s : State) : Host.Outcome State Fault Refusal :=
  match s.fault with
  | some f => .fault f
  | none =>
    match fetch s with
    | .error r => .refused r
    | .ok i => exec i s

/-- `s` with a command list loaded whose command at `pc` is the table word `w` (notes/assumptions/5.md). -/
def State.withFetchWord (s : State) (nbits w : Nat) : State :=
  { s with program := programWithWord s.pc nbits w }

end Sys2Proof.Machine
end

