-- ==== Sys2Proof/Safety.lean ====
section
/-! DEFINITION. What claims are stated in: ends of a run (70_reset_and_hazards.md R105), the idle invariant (10_state.md
R28) and the other invariants, the event patterns of 30_encoding.md R45 and R46, the premises about the display
(00_scope.md R6), and the line-2 duty of the caller (R113). -/

namespace Sys2Proof.Safety

open Sys2Proof.Machine

/-! ## Runs -/

/-- R105: the run has ended well. -/
abbrev EndsWell (s : State) : Prop := s.fault = none ∧ s.pc = s.program.length

/-- R105, R89: the run has ended in a fault. -/
abbrev EndsInFault (s : State) : Prop := s.fault ≠ none

/-- R86, R105: the launch and the transcription are not refused; `is` is the transcribed list. -/
def Launched (s : State) (is : List Instr) : Prop :=
  launchRefusal s = none ∧ transcribe s.program = .ok is

/-- What a run is launched with, which no command changes (R14). -/
def SameLaunch (s t : State) : Prop := t.cfg = s.cfg ∧ t.program = s.program ∧ t.callers = s.callers

/-! ## Lines and patterns -/

/-- The six owned lines (R8, R13). -/
def ownedLine (c : Config) (i : Nat) : Bool :=
  i == c.rsBit || i == c.enBit || (decide (c.dataShift ≤ i) && decide (i ≤ c.dataShift + 3))

/-- `o` with bit `i` set to `b`. -/
def setLine (o : PortWord) (i : Nat) (b : Bool) : PortWord :=
  if b then o ||| 1 <<< i else (o ||| 1 <<< i) ^^^ (1 <<< i)

/-- R45: the events of one nibble cycle that starts from the idle value `o`. -/
def nibbleEvents (c : Config) (o : PortWord) (v : Nibble) : List Event :=
  [.outW (o ||| 1 <<< c.enBit), .outW (o ||| 1 <<< c.enBit ||| v.toNat <<< c.dataShift),
   .outW (o ||| v.toNat <<< c.dataShift), .outW o]

/-- R34, R61: the events of one byte from the idle value `o`: the high nibble `b >> 4`, then the low one `b & 0x0F`. -/
def byteEvents (c : Config) (o : PortWord) (b : Byte) : List Event :=
  nibbleEvents c o ((b >>> 4).setWidth 4) ++ nibbleEvents c o ((b &&& 0x0F#8).setWidth 4)

/-- R46: the events of one frame from the idle value `o`. -/
def frameEvents (c : Config) (o : PortWord) (rs : Bool) (b : Byte) : List Event :=
  .waitE .settle :: .outW (setLine o c.rsBit rs) :: byteEvents c (setLine o c.rsBit rs) b

/-- R62, R75: the places (counted from `k`) of the register writes in a list of events that take EN from 1 to 0, when
`OUT` held `o` before the list. -/
def fallingEdges (c : Config) (o : PortWord) (k : Nat) : List Event → List Nat
  | [] => []
  | .outW v :: es =>
    if enBitOf c o && !enBitOf c v then k :: fallingEdges c v (k + 1) es else fallingEdges c v (k + 1) es
  | .dirW _ :: es => fallingEdges c o k es
  | .waitE _ :: es => fallingEdges c o k es

/-- The last value written to `OUT_REG` in a trace. -/
def lastOut (es : List Event) : Option PortWord :=
  es.foldl (fun a e => match e with | .outW v => some v | _ => a) none

/-- The last `dir_out` written to `DIR_REG` in a trace. -/
def lastDir (es : List Event) : Option PortWord :=
  es.foldl (fun a e => match e with | .dirW v => some v | _ => a) none

/-- R82: the delay a trace records, in the unit of the durations of R6. -/
def traceDelay (c : Config) (es : List Event) : Nat :=
  (es.map (fun e => match e with | .waitE k => waitDuration c k | _ => 0)).sum

/-! ## Invariants -/

/-- Both registers hold `PORT_WIDTH` bits (R16, R21). -/
abbrev InRange (s : State) : Prop := s.out < 2 ^ s.cfg.portWidth ∧ s.dirOut < 2 ^ s.cfg.portWidth

/-- R28: EN is 0, the data lines are 0, and the six lines are outputs. -/
abbrev Idle (s : State) : Prop :=
  s.out.testBit s.cfg.enBit = false ∧ s.out &&& dataM s.cfg = 0 ∧ s.dirOut &&& lcdM s.cfg = lcdM s.cfg

/-- The idle invariant with what it rests on: a valid configuration, registers in range, and idle once ready. -/
abbrev IdleInv (s : State) : Prop :=
  configValid s.cfg = true ∧ InRange s ∧ (s.ready = true → Idle s)

/-- R24, R31: the registers hold what the trace says was last written to them, and after PORT_INIT both have been
written. -/
abbrev TraceInv (s : State) : Prop :=
  (∀ v, lastOut s.trace = some v → s.out = v) ∧ (∀ v, lastDir s.trace = some v → s.dirOut = v)
    ∧ (s.ready = true → lastOut s.trace ≠ none ∧ lastDir s.trace ≠ none)

/-- R25, R86, R88: `pc` does not pass the end of the list, and a fault mark names a transfer, at this `pc`, that is the
command there, and is only found while `ready` is false. -/
def FaultInv (s : State) : Prop :=
  s.pc ≤ s.program.length ∧
    ∀ i p, s.fault = some (.uninit i p) →
      s.ready = false ∧ p = s.pc ∧ i.isTransfer = true ∧ ∃ c, s.program[p]? = some c ∧ decode c.command = .ok i

/-- A state a transfer can start from with the events of R45 and R46: a valid configuration, no fault, `ready`, and the
idle invariant. -/
abbrev ReadyIdle (s : State) : Prop :=
  configValid s.cfg = true ∧ s.fault = none ∧ s.ready = true ∧ InRange s ∧ Idle s

/-! ## The display -/

/-- The premises about the display that a claim on received frames takes (R6, R97, R111, R114, R116). -/
def displayPremises (s : State) : Bool :=
  s.cfg.displayInPhase && s.cfg.settleSufficient && s.cfg.strobeTimingMet && bootOrderMet s

/-- R97: the display pairs the next frame's nibbles as (high, low): it is in phase after an earlier frame, or this is
the run's first frame, under the premises. -/
def InPhase (s : State) : Prop :=
  (s.display.frameSeen = true ∧ s.display.phase = .high) ∨ (s.display.frameSeen = false ∧ displayPremises s = true)

/-- R97, R112: the display holds a high nibble and takes the next one for the low half. -/
def awaitsLow : Phase → Bool
  | .low _ _ => true
  | .high => false
  | .unknown => false

/-! ## The states the transfers end in, from a state that is `ReadyIdle` -/

/-- R60, R96: after SEND_NIBBLE of `v`: four events, one latch at the third write, everything else as before. -/
def nibbleResult (v : Nibble) (s : State) : State :=
  { s with pc := s.pc + 1, trace := s.trace ++ nibbleEvents s.cfg s.out v, draws := s.draws + 4,
           display := latchNibble (s.draws + 2) ⟨s.out.testBit s.cfg.rsBit, v⟩ s.display }

/-- R61, R96: after SEND_BYTE of `b`: eight events, two latches, at the third and the seventh write. -/
def byteResult (b : Byte) (s : State) : State :=
  { s with pc := s.pc + 1, trace := s.trace ++ byteEvents s.cfg s.out b, draws := s.draws + 8,
           display := latchNibble (s.draws + 6) ⟨s.out.testBit s.cfg.rsBit, (b &&& 0x0F#8).setWidth 4⟩
             (latchNibble (s.draws + 2) ⟨s.out.testBit s.cfg.rsBit, (b >>> 4).setWidth 4⟩ s.display) }

/-- R67, R68, R75, R96: after a frame: RS at the frame's level, ten events, two latches, at the fourth and the eighth
write, the first of them after the settling delay and the start of the frame. -/
def frameResult (rs : Bool) (b : Byte) (s : State) : State :=
  { s with out := setLine s.out s.cfg.rsBit rs, pc := s.pc + 1,
           trace := s.trace ++ frameEvents s.cfg s.out rs b, draws := s.draws + 9,
           display := latchNibble (s.draws + 7) ⟨rs, (b &&& 0x0F#8).setWidth 4⟩
             (latchNibble (s.draws + 3) ⟨rs, (b >>> 4).setWidth 4⟩
               (seeFrameStart (s.cfg.displayInPhase && bootOrderMet s) (seeWait s.cfg .settle s.display))) }

/-- R81, R100: after WAIT of kind `k`: one event, and `pc`; the display's busy time ends with a settling delay where
`SETTLE_SUFFICIENT` holds. -/
def waitResult (k : WaitKind) (s : State) : State :=
  { s with trace := s.trace ++ [.waitE k], pc := s.pc + 1,
           display := if k = .settle ∧ s.cfg.settleSufficient = true then { s.display with busy := false }
             else s.display }

/-- R88: after a fault entry of `i`: the mark, and nothing else. -/
def uninitResult (i : Instr) (s : State) : State := { s with fault := some (.uninit i s.pc) }

/-- What SEND_INSTRUCTION or SEND_CHARACTER of a frame does, on every path: `UNINIT` while `ready` is false, else the
frame (R67, R68). -/
def SendsFrame (i : Instr) (rs : Bool) (b : Byte) : Prop :=
  (∀ s, s.fault = none → s.ready = false → exec i s = .next (uninitResult i s)) ∧
    ∀ s, ReadyIdle s → exec i s = .next (frameResult rs b s)

/-! ## The caller's duty for line 2 -/

/-- R113: every line-2 address in a list of commands follows a line-1 address with column 0 immediately; `prev` is the
command before the list. -/
def line2Guarded (prev : Option Command) : List Command → Bool
  | [] => true
  | c :: cs =>
    (match c with
      | .instr (.setaddr 2 _) => prev == some (.instr (.setaddr 1 0))
      | _ => true) && line2Guarded (some c) cs

end Sys2Proof.Safety
end

