-- ==== Sys2Proof/Certificates/Slice0/Obligations.lean ====
section
/-! DEFINITION. The statements for the provers. Each docstring names the rule or the section of spec/ it rests on. -/

open Sys2Proof Sys2Proof.Machine Sys2Proof.Safety

/-! ## Reset, launch, fetch -/

/-- 70_reset_and_hazards.md R106: whatever `OUT` and `dir_out` hold at power-up, and whatever the launch, `ready` is
false, there is no fault, the trace is empty and `pc` is 0; and so it is at reset. -/
def Obligations.PowerUpState : Prop :=
  (∀ c p o d, (State.powerUp c p o d).out = o ∧ (State.powerUp c p o d).dirOut = d
    ∧ (State.powerUp c p o d).ready = false ∧ (State.powerUp c p o d).fault = none
    ∧ (State.powerUp c p o d).trace = [] ∧ (State.powerUp c p o d).pc = 0) ∧
  State.reset.ready = false ∧ State.reset.fault = none ∧ State.reset.trace = [] ∧ State.reset.pc = 0

/-- 10_state.md §4, §6: the three invariants below hold at reset. The configuration and the register values of reset are
the model's choice (log entries 1 and 2). -/
def Obligations.ResetMeetsInvariants : Prop :=
  IdleInv State.reset ∧ TraceInv State.reset ∧ FaultInv State.reset

/-- 10_state.md §4, 70_reset_and_hazards.md §1: a step of a launched run with no fault is exec of the decoded command at
`pc`; the step itself adds nothing to exec. -/
def Obligations.StepRunsDecoded : Prop :=
  ∀ s is c i, s.fault = none → Launched s is → s.program[s.pc]? = some c → decode c.command = .ok i →
    step s = exec i s

/-- A table word placed where the step fetches is the instruction the step runs. That a frame word can stand in the
command list is the model's own form (log entries 4 and 5). -/
def Obligations.FetchWordRuns : Prop :=
  ∀ s nbits w i, s.fault = none → launchRefusal s = none → decodeTableWord nbits w = some i →
    step (s.withFetchWord nbits w) = exec i (s.withFetchWord nbits w)

/-- 60_exceptions.md R86, R87 clause 1: a launch with a configuration that breaks R7 is refused, and one with a second
caller, each with the record R86 names: the parameter set, and the launch. The model checks the configuration first (log
entry 23). -/
def Obligations.LaunchRefused : Prop :=
  ∀ s, s.fault = none →
    (configValid s.cfg = false → step s = .refused (.refuseConfig s.cfg)) ∧
    (configValid s.cfg = true → 1 < s.callers → step s = .refused (.refuseConcurrent s.launch))

/-- 60_exceptions.md R87 clause 2: transcription refuses the first bad command in list order, with its source line (R86). -/
def Obligations.TranscriptionRefusesFirstBad : Prop :=
  ∀ (good : List SourceCommand) (c : SourceCommand) (rest : List SourceCommand) (e : DecodeError),
    (∀ g ∈ good, g.command.wellFormed = true) → decode c.command = .error e →
      transcribe (good ++ c :: rest)
        = .error (match e with
            | .instrCode => .refuseInstrCode c.line
            | .range => .refuseRange c.line)

/-- 60_exceptions.md R87: a launched run whose transcription is refused has no step but the refusal, whatever stands at
`pc` (70_reset_and_hazards.md R105). -/
def Obligations.RefusedTranscriptionHasNoStep : Prop :=
  ∀ s r, s.fault = none → launchRefusal s = none → transcribe s.program = .error r → step s = .refused r

/-- 70_reset_and_hazards.md §1: at the end of the list there is nothing to step. That the step answers a refusal there is
the model's choice (log entry 6). -/
def Obligations.EndOfRunHasNoStep : Prop :=
  ∀ s is, Launched s is → EndsWell s → step s = .refused (.endOfRun s.pc)

/-- 60_exceptions.md R89, 10_state.md R23: a faulted state has no step, no instruction runs from it, PORT_INIT included,
and it is no good end of run. -/
def Obligations.FaultedStateHasNoStep : Prop :=
  ∀ s f, s.fault = some f → step s = .fault f ∧ (∀ i, exec i s = .fault f) ∧ ¬ EndsWell s

/-- 60_exceptions.md R86, R88, 41_codec.md §3: every transfer raises `UNINIT` while `ready` is false: the mark records the
command and `pc`, and nothing else changes. R86 names four commands. The six frame rows are SEND_INSTRUCTION or
SEND_CHARACTER, and that each is an instruction of its own, marked under its own name, is the model's choice (log entry
4). -/
def Obligations.TransfersFaultBeforeInit : Prop :=
  ∀ i s, i.isTransfer = true → s.fault = none → s.ready = false →
    exec i s = .next { s with fault := some (.uninit i s.pc) }

/-- 70_reset_and_hazards.md R110: a command that starts either completes, and `pc` advances by one, or faults at its first
step; no command hangs, and none changes what the run was launched with. -/
def Obligations.EveryCommandCompletesOrFaults : Prop :=
  ∀ s is, s.fault = none → Launched s is → s.pc < s.program.length →
    ∃ t, step s = .next t ∧ SameLaunch s t ∧
      ((t.fault = none ∧ t.pc = s.pc + 1) ∨
        ∃ i, is[s.pc]? = some i ∧ i.isTransfer = true ∧ s.ready = false ∧ t = uninitResult i s)

/-! ## Encoding -/

/-- Decode and encode agree on every instruction with every operand (30_encoding.md §6, §7). The frame form of the six
frame rows is the model's (log entry 4). -/
def Obligations.DecodeEncodeRoundTrip : Prop :=
  ∀ i, decode (encode i) = .ok i

/-- Words written out from 30_encoding.md R47, R48, R49, R54 and R55: one frame word per frame row, and lines of
assembler text for every host command. -/
def Obligations.WordsOfEachRowDecode : Prop :=
  decodeTableWord 16 0b0_0000_0001 = some .clearDisplay ∧
  decodeTableWord 16 0b0_0000_0010 = some .returnHome ∧
  decodeTableWord 16 0b0_0000_1100 = some .displayOn ∧
  decodeTableWord 16 0b0_0010_1000 = some .functionSet ∧
  decodeTableWord 16 0b0_1110_0111 = some (.setAddress .line2 0x27#6) ∧
  decodeTableWord 16 0b1_0101_0100 = some (.character 0x54#8) ∧
  decode (.nib 0xA) = .ok (.sendNibble 0xA#4) ∧
  decode (.byte 0x28) = .ok (.sendByte 0x28#8) ∧
  decode (.instr (.setaddr 2 63)) = .ok (.sendInstruction (.setaddr .line2 63#6)) ∧
  decode (.char 0x54) = .ok (.sendCharacter 0x54#8) ∧
  decode .pinit = .ok .portInit ∧
  decode (.wait .stabPre) = .ok (.wait .stabPre)

/-- 30_encoding.md §3 (R51) and §7 (R57): decoding a frame is total, follows the table's rows, and a frame is outside the
codec's set exactly when no row matches it; no two rows match the same frame. -/
def Obligations.FrameDecodingFollowsTable : Prop :=
  (∀ f : Frame, decodeFrame f = none ↔ ∀ r ∈ frameRows, rowMatches r f = false) ∧
  frameRows.Pairwise (fun r q => ∀ f : Frame, ¬ (rowMatches r f = true ∧ rowMatches q f = true)) ∧
  ∀ f : Frame,
    (f.getLsbD 8 = true → decodeFrame f = some (.character (f.setWidth 8))) ∧
    (f.getLsbD 8 = false → f.getLsbD 7 = true →
      decodeFrame f = some (.setAddress (if f.getLsbD 6 then .line2 else .line1) (f.setWidth 6))) ∧
    (f = 0x001#9 → decodeFrame f = some .clearDisplay) ∧ (f = 0x002#9 → decodeFrame f = some .returnHome) ∧
    (f = 0x00C#9 → decodeFrame f = some .displayOn) ∧ (f = 0x028#9 → decodeFrame f = some .functionSet)

/-- 30_encoding.md R46, R57: the frame an instruction sends is a frame of the table, that decodes to the row of the same
frame; a frame row decodes to itself. -/
def Obligations.SentFramesDecode : Prop :=
  (∀ i f, frameOf i = some f → ∃ j, decodeFrame f = some j ∧ frameOf j = some f) ∧
  ∀ f j, decodeFrame f = some j → frameOf j = some f

/-- 41_codec.md R65: the five encodings, injective, with the image the rule gives. -/
def Obligations.EncodingFunction : Prop :=
  enc .clear = 0x01#8 ∧ enc .home = 0x02#8 ∧ enc .dispon = 0x0C#8 ∧ enc .fset = 0x28#8 ∧
  (∀ col : BitVec 6, (enc (.setaddr .line1 col)).toNat = 0x80 + col.toNat ∧
    (enc (.setaddr .line2 col)).toNat = 0x80 + 0x40 + col.toNat) ∧
  (∀ a b, enc a = enc b → a = b) ∧
  ∀ y : Byte, (∃ a, enc a = y) ↔ y = 0x01#8 ∨ y = 0x02#8 ∨ y = 0x0C#8 ∨ y = 0x28#8 ∨ 0x80 ≤ y.toNat

/-- 30_encoding.md R52, R57: a written command transcribes exactly when its operand is in range and in the closed set. That
every number after `INSTR` is refused, one of the closed set too, is the model's choice (log entry 3). R52 has no frame
form: that a frame number may stand in the list, and which ones (those a row of R57 matches), is the model's choice (log
entry 4). -/
def Obligations.TranscriptionAcceptsWellFormed : Prop :=
  ∀ c : Command, (∃ i, decode c = .ok i) ↔ c.wellFormed = true

/-- 30_encoding.md R52: the two refusal reasons of transcription. The last clause takes every number outside the closed set:
that one above 0xFF after `INSTR` is refused with `REFUSE_INSTR_CODE` and not with `REFUSE_RANGE` is the model's choice
(log entry 3). -/
def Obligations.TranscriptionRefusals : Prop :=
  (∀ v, 0xF < v → decode (.nib v) = .error .range) ∧
  (∀ b, 0xFF < b → decode (.byte b) = .error .range ∧ decode (.char b) = .error .range) ∧
  (∀ l col, 63 < col ∨ (l ≠ 1 ∧ l ≠ 2) → decode (.instr (.setaddr l col)) = .error .range) ∧
  (∀ b, (∀ a, (enc a).toNat ≠ b) → decode (.instr (.rawByte b)) = .error .instrCode)

/-- 30_encoding.md R56, 70_reset_and_hazards.md R113: `LINE` and `CLRLINE` of a line send the line's address, a line-2
address only after a line-1 address, and then exactly sixteen characters, the text's first and blanks after it; `CLRLINE`
of any other line sends nothing. -/
def Obligations.LineExpansion : Prop :=
  ∀ (blank : Byte) (text : List Byte),
    (∃ chars : List Command,
      expand blank (.line .line1 text) = .instr (.setaddr 1 0) :: chars ∧
      expand blank (.line .line2 text) = .instr (.setaddr 1 0) :: .instr (.setaddr 2 0) :: chars ∧
      chars.length = 16 ∧
      (∀ k, k < 16 → ∀ (h : k < text.length), chars[k]? = some (.char text[k].toNat)) ∧
      (∀ k, k < 16 → text.length ≤ k → chars[k]? = some (.char blank.toNat))) ∧
    (∀ l : Line, line2Guarded none (expand blank (.line l text)) = true) ∧
    expand blank (.clrLine 1) = expand blank (.line .line1 []) ∧
    expand blank (.clrLine 2) = expand blank (.line .line2 []) ∧
    ∀ l : Nat, l ≠ 1 → l ≠ 2 → expand blank (.clrLine l) = []

/-! ## Words and masks -/

/-- 00_scope.md R8: each mask bit by bit, for every valid configuration. -/
def Obligations.MasksOfWiring : Prop :=
  ∀ c, configValid c = true →
    rsM c = 2 ^ c.rsBit ∧ enM c = 2 ^ c.enBit ∧ dataM c = 0xF <<< c.dataShift ∧
    (∀ i, (lcdM c).testBit i = ownedLine c i) ∧
    (∀ i, (otherM c).testBit i = (decide (i < c.portWidth) && !ownedLine c i)) ∧
    ((List.range c.portWidth).filter (ownedLine c)).length = 6

/-- 30_encoding.md R50, 10_state.md R19: a nibble placed on the data lines reads back as itself, bit `i` on line
`DATA_SHIFT + i`, inside `D_M`; and the nibble split of a byte loses no bit (40_bus_transmitter.md R63). -/
def Obligations.OperandAssembly : Prop :=
  (∀ c v, configValid c = true →
    dataOf c (placeNibble c v) = v ∧ placeNibble c v &&& dataM c = placeNibble c v ∧
      placeNibble c v = v.toNat <<< c.dataShift ∧ placeNibble c v < 2 ^ c.portWidth) ∧
  ∀ b : Byte, (hiNibble b).toNat = b.toNat / 16 ∧ (loNibble b).toNat = b.toNat % 16 ∧ hiNibble b ++ loNibble b = b

/-! ## The instructions -/

/-- 40_bus_transmitter.md R60: SEND_NIBBLE. While `ready` is false it raises `UNINIT` before any write; from a state that
is ready and idle it makes the four writes of R45 and completes, and nothing else of the transmitter changes. The display
latches the nibble under the current RS (R96). The draw count and the index of the latch are the model's own (log entry
10). -/
def Obligations.SendNibble : Prop :=
  ∀ v : Nibble, decode (.nib v.toNat) = .ok (.sendNibble v) ∧
    (∀ s, s.fault = none → s.ready = false → exec (.sendNibble v) s = .next (uninitResult (.sendNibble v) s)) ∧
    ∀ s, ReadyIdle s → exec (.sendNibble v) s = .next (nibbleResult v s)

/-- 40_bus_transmitter.md R61: SEND_BYTE, high nibble `b >> 4`, then low nibble `b & 0x0F`, with no wait and no RS
write; `UNINIT` while `ready` is false (R88). The display latches the two nibbles (60_exceptions.md R96). The draw count
and the indexes of the latches are the model's own (log entry 10). -/
def Obligations.SendByte : Prop :=
  ∀ b : Byte, decode (.byte b.toNat) = .ok (.sendByte b) ∧
    (∀ s, s.fault = none → s.ready = false → exec (.sendByte b) s = .next (uninitResult (.sendByte b) s)) ∧
    ∀ s, ReadyIdle s → exec (.sendByte b) s = .next (byteResult b s)

/-- 41_codec.md R67: SEND_INSTRUCTION: one settling wait, RS cleared, then the byte `enc(code)`; `UNINIT` while `ready` is
false (R88). Of the display's part of the result, the draw count and the indexes of the latches (log entry 10), the phase
at the start of the run's first frame (log entry 11) and the end of the busy time at the wait (log entry 12) are the
model's choices. -/
def Obligations.SendInstruction : Prop :=
  ∀ code : InstrCode, decode (.instr (encodeCode code)) = .ok (.sendInstruction code) ∧
    SendsFrame (.sendInstruction code) false (enc code)

/-- 41_codec.md R69, R70, R71, R72, R73: the five instruction rows are SEND_INSTRUCTION with the bytes of the rules. The
model's choices in it: that a row is an instruction of its own, whose name the `UNINIT` mark records (log entry 4), and
the display's draw count, phase at the run's first frame, and end of busy time (log entries 10, 11, 12). -/
def Obligations.InstructionRows : Prop :=
  SendsFrame .clearDisplay false 0x01#8 ∧ SendsFrame .returnHome false 0x02#8 ∧ SendsFrame .displayOn false 0x0C#8 ∧
  SendsFrame .functionSet false 0x28#8 ∧
  ∀ col : BitVec 6, SendsFrame (.setAddress .line1 col) false (BitVec.ofNat 8 (0x80 + col.toNat)) ∧
    SendsFrame (.setAddress .line2 col) false (BitVec.ofNat 8 (0xC0 + col.toNat))

/-- 41_codec.md R68: SEND_CHARACTER, and the CHARACTER row: one settling wait, RS set, then the byte `c`. The model's
choices in it: that the CHARACTER row is an instruction of its own (log entry 4), and the display's draw count, phase at
the run's first frame, and end of busy time (log entries 10, 11, 12). -/
def Obligations.SendCharacter : Prop :=
  ∀ c : Byte, decode (.char c.toNat) = .ok (.sendCharacter c) ∧
    SendsFrame (.sendCharacter c) true c ∧ SendsFrame (.character c) true c

/-- 42_port_control.md R80: PORT_INIT, legal whether or not `ready`: the direction write, then the output write; every
owned line becomes an output and is cleared, and under `WHOLE_PORT` every other line too; nothing else of the transmitter
changes. At the display the line-1 history is forgotten (60_exceptions.md R101). The draw count (log entry 10) and that a
later frame is not taken for the run's first one (log entry 11) are the model's choices. -/
def Obligations.PortInit : Prop :=
  ∀ s, configValid s.cfg = true → s.fault = none →
    ∃ t, exec .portInit s = .next t ∧
      (∀ i, i < s.cfg.portWidth →
        t.dirOut.testBit i
          = (s.dirOut.testBit i || ownedLine s.cfg i || decide (s.cfg.portInitScope = .wholePort)) ∧
        t.out.testBit i
          = (s.out.testBit i && !(ownedLine s.cfg i || decide (s.cfg.portInitScope = .wholePort)))) ∧
      InRange t ∧ t.trace = s.trace ++ [.dirW t.dirOut, .outW t.out] ∧ t.ready = true ∧ t.fault = none ∧
      t.pc = s.pc + 1 ∧ SameLaunch s t ∧ t.draws = s.draws + 2 ∧
      t.display.line1Addressed = false ∧ t.display.frameSeen = s.display.frameSeen

/-- 42_port_control.md R81: WAIT appends its event and advances `pc`; it writes no register and changes no pin, and never
faults. That a settling delay, and no other, ends the display's busy time, where `SETTLE_SUFFICIENT` holds, is the model's
choice (log entry 12; 60_exceptions.md R100). -/
def Obligations.WaitCommand : Prop :=
  ∀ s k, s.fault = none →
    exec (.wait k) s = .next (waitResult k s)

/-- 41_codec.md §3: each instruction row does what SEND_INSTRUCTION with its code does, and CHARACTER what
SEND_CHARACTER does, in every ready state. -/
def Obligations.RowsAreCodecOperations : Prop :=
  ∀ s, s.ready = true →
    exec .clearDisplay s = exec (.sendInstruction .clear) s ∧ exec .returnHome s = exec (.sendInstruction .home) s ∧
    exec .displayOn s = exec (.sendInstruction .dispon) s ∧ exec .functionSet s = exec (.sendInstruction .fset) s ∧
    (∀ l col, exec (.setAddress l col) s = exec (.sendInstruction (.setaddr l col)) s) ∧
    ∀ c, exec (.character c) s = exec (.sendCharacter c) s

/-- 40_bus_transmitter.md R61, R62: in every state, SEND_BYTE ends as SEND_NIBBLE of the high nibble and then of the low
one, but for `pc`. -/
def Obligations.ByteIsTwoNibbles : Prop :=
  ∀ b s u t, exec (.sendNibble (hiNibble b)) s = .next u → exec (.sendNibble (loNibble b)) u = .next t →
    s.ready = true → exec (.sendByte b) s = .next { t with pc := s.pc + 1 }

/-! ## Frames -/

/-- 40_bus_transmitter.md §4 (R64), in every state with a valid configuration: the Bus Transmitter family never writes RS,
never writes `DIR`, never changes a non-owned bit and never changes `ready`; the launch data and, unless it raises
`UNINIT`, the fault mark stay. -/
def Obligations.TransmitterFrame : Prop :=
  ∀ s t i, (∃ v, i = .sendNibble v) ∨ (∃ b, i = .sendByte b) → configValid s.cfg = true → exec i s = .next t →
    t.out.testBit s.cfg.rsBit = s.out.testBit s.cfg.rsBit ∧
    (∀ k, k < s.cfg.portWidth → ownedLine s.cfg k = false → t.out.testBit k = s.out.testBit k) ∧
    t.dirOut = s.dirOut ∧ t.ready = s.ready ∧ SameLaunch s t ∧ (s.ready = true → t.fault = none)

/-- 41_codec.md §4 (R76) and 10_state.md §2 (R20), in every state with a valid configuration: after an instruction frame
RS is 0, after a character frame 1; no non-owned bit, no direction and not `ready` changes. -/
def Obligations.CodecFrame : Prop :=
  ∀ s t i f, frameOf i = some f → configValid s.cfg = true → s.ready = true → exec i s = .next t →
    t.out.testBit s.cfg.rsBit = f.getLsbD 8 ∧
    (∀ k, k < s.cfg.portWidth → ownedLine s.cfg k = false → t.out.testBit k = s.out.testBit k) ∧
    t.dirOut = s.dirOut ∧ t.ready = true ∧ t.fault = none ∧ SameLaunch s t

/-- 10_state.md §2 (R20): no instruction changes a non-owned bit of `OUT` or of `dir_out`, but PORT_INIT under
`WHOLE_PORT`. -/
def Obligations.NonOwnedBitsKept : Prop :=
  ∀ s t i, configValid s.cfg = true → (i = .portInit → s.cfg.portInitScope = .lcdOnly) → exec i s = .next t →
    ∀ k, k < s.cfg.portWidth → ownedLine s.cfg k = false →
      t.out.testBit k = s.out.testBit k ∧ t.dirOut.testBit k = s.dirOut.testBit k

/-- 10_state.md R21, R22: only PORT_INIT writes `DIR` and sets `ready`; nothing clears `ready`; no instruction changes the
launch data. -/
def Obligations.OnlyPortInitSetsDirection : Prop :=
  ∀ s t i, exec i s = .next t →
    (i ≠ .portInit → t.dirOut = s.dirOut ∧ t.ready = s.ready) ∧ (s.ready = true → t.ready = true) ∧
    (i = .portInit → t.ready = true) ∧ SameLaunch s t

/-- 40_bus_transmitter.md §4 (R62), 41_codec.md §4 (R75), 42_port_control.md: in every state the trace only grows, by
events fixed in kind and number for each instruction that completes: 4, 8, 1 and 9, 2, or 1. -/
def Obligations.TraceShape : Prop :=
  ∀ s t i, exec i s = .next t → t.fault = none →
    ∃ es, t.trace = s.trace ++ es ∧ t.pc = s.pc + 1 ∧
      match i with
      | .sendNibble _ => ∃ a : List PortWord, a.length = 4 ∧ es = a.map .outW
      | .sendByte _ => ∃ a : List PortWord, a.length = 8 ∧ es = a.map .outW
      | .portInit => ∃ d o, es = [.dirW d, .outW o]
      | .wait k => es = [.waitE k]
      | _ => ∃ a : List PortWord, a.length = 9 ∧ es = .waitE .settle :: a.map .outW

/-- 40_bus_transmitter.md §4 (R62), 41_codec.md §4 (R75): the EN falling edges of a completed transfer: the third write of
SEND_NIBBLE, the third and seventh of SEND_BYTE, the fourth and eighth of a frame. -/
def Obligations.FallingEdgesOfTransfers : Prop :=
  ∀ s i, ReadyIdle s → i.isTransfer = true →
    ∃ t es, exec i s = .next t ∧ t.trace = s.trace ++ es ∧
      fallingEdges s.cfg s.out 1 es =
        match i with
        | .sendNibble _ => [3]
        | .sendByte _ => [3, 7]
        | _ => [4, 8]

/-- 30_encoding.md R45: the pin words `{D, EN, RS}` of the nibble cycle, from an idle pin word with RS = `r`, and the latch
of `(r, v)` at the third. The draw count and the index of the latch are the model's own (log entry 10). -/
def Obligations.NibbleCyclePinWords : Prop :=
  ∀ s (v : Nibble) (r : Bool), ReadyIdle s → s.out.testBit s.cfg.rsBit = r →
    ∃ o1 o2 o3 o4, exec (.sendNibble v) s
        = .next { nibbleResult v s with trace := s.trace ++ [.outW o1, .outW o2, .outW o3, .outW o4] } ∧
      pinWord s.cfg o1 = 0#4 ++ 1#1 ++ BitVec.ofBool r ∧ pinWord s.cfg o2 = v ++ 1#1 ++ BitVec.ofBool r ∧
      pinWord s.cfg o3 = v ++ 0#1 ++ BitVec.ofBool r ∧ pinWord s.cfg o4 = 0#4 ++ 0#1 ++ BitVec.ofBool r

/-- 42_port_control.md R82, 41_codec.md R66: the delay a completed instruction records: one settling delay for a frame, the
named delay for WAIT, none for the others. -/
def Obligations.RecordedDelays : Prop :=
  ∀ s t i, exec i s = .next t → t.fault = none →
    traceDelay s.cfg t.trace = traceDelay s.cfg s.trace +
      match i with
      | .wait k => waitDuration s.cfg k
      | .sendNibble _ => 0
      | .sendByte _ => 0
      | .portInit => 0
      | _ => s.cfg.tSettle

/-! ## Invariants -/

/-- 10_state.md R28: the idle invariant, with a valid configuration and registers in range, is kept by every step. -/
def Obligations.StepKeepsIdle : Prop :=
  ∀ s t, IdleInv s → step s = .next t → IdleInv t

/-- 10_state.md R24, 20_memory.md R31: every step keeps the agreement of the registers with the trace. -/
def Obligations.StepKeepsTrace : Prop :=
  ∀ s t, TraceInv s → step s = .next t → TraceInv t

/-- 10_state.md R25, 60_exceptions.md R86, R88: every step keeps `pc` within the list, and a fault mark names the transfer
at this `pc`, found while `ready` is false. -/
def Obligations.StepKeepsFaultMark : Prop :=
  ∀ s t, FaultInv s → step s = .next t → FaultInv t

/-! ## What no instruction reads -/

/-- 20_memory.md R33, 60_exceptions.md R94: the transmitter never reads from the display: with any other display and any
other draws, an instruction makes the same events and leaves the same transmitter state. -/
def Obligations.DisplayIsNeverRead : Prop :=
  ∀ s i d n t, exec i s = .next t →
    ∃ d' n', exec i { s with display := d, draws := n } = .next { t with display := d', draws := n' }

/-- 42_port_control.md R82, 92_eei_decisions.md D4: no meaning depends on a duration or on the polarity of the direction
register: changing them changes nothing but themselves. -/
def Obligations.DurationsAndPolarityUnread : Prop :=
  ∀ s i a b c p t, exec i s = .next t →
    exec i { s with cfg := { s.cfg with tSettle := a, tStabPre := b, tStabPost := c, dirOutputValue := p } }
      = .next { t with cfg := { t.cfg with tSettle := a, tStabPre := b, tStabPost := c, dirOutputValue := p } }

/-! ## The display -/

/-- 60_exceptions.md R96, 41_codec.md R75, 30_encoding.md R58: what the display latches: SEND_NIBBLE its nibble and
SEND_BYTE its two under the current RS level, a frame its two under the frame's. -/
def Obligations.LatchedNibbles : Prop :=
  ∀ s, ReadyIdle s →
    (∀ v, ∃ t, exec (.sendNibble v) s = .next t ∧
      t.display.latches = s.display.latches ++ [⟨s.out.testBit s.cfg.rsBit, v⟩]) ∧
    (∀ b, ∃ t, exec (.sendByte b) s = .next t ∧
      t.display.latches = s.display.latches ++
        [⟨s.out.testBit s.cfg.rsBit, hiNibble b⟩, ⟨s.out.testBit s.cfg.rsBit, loNibble b⟩]) ∧
    ∀ i rs b, frameOf i = some (mkFrame rs b) → ∃ t, exec i s = .next t ∧
      t.display.latches = s.display.latches ++ [⟨rs, hiNibble b⟩, ⟨rs, loNibble b⟩]

/-- 60_exceptions.md R97, R100: in phase, and with `SETTLE_SUFFICIENT`, the display receives exactly the frame that was
sent, settled, is busy after it, and stays in phase. The phase at the run's first frame (log entry 11) and the busy mark
(log entry 12) are the model's choices. -/
def Obligations.SentFrameIsReceived : Prop :=
  ∀ s i f, ReadyIdle s → InPhase s → s.cfg.settleSufficient = true → frameOf i = some f →
    ∃ t, exec i s = .next t ∧ t.display.received = s.display.received ++ [⟨f, true⟩] ∧
      t.display.phase = .high ∧ t.display.busy = true ∧ t.display.frameSeen = true

/-- 70_reset_and_hazards.md §3 (R112): where the display waits for a low nibble, a frame is paired across the frame
boundary: the pending nibble with the frame's high one, and the frame's low one is left pending. -/
def Obligations.OddNibblePairsAcrossFrames : Prop :=
  ∀ s i rs b hi e, ReadyIdle s → s.display.frameSeen = true → s.display.phase = .low hi e → hi.rs = rs →
    frameOf i = some (mkFrame rs b) →
    ∃ t e', exec i s = .next t ∧
      t.display.received = s.display.received ++ [⟨mkFrame rs (hi.nib ++ hiNibble b), !e⟩] ∧
      t.display.phase = .low ⟨rs, loNibble b⟩ e'

/-- 60_exceptions.md R99: the meanings of received frames, in phase and settled: clear-display leaves no character data,
display-on turns the display on, function-set selects its mode, and a character puts its code at the display. That the
code stands under the current address pointer is the model's reading (log entry 13). -/
def Obligations.MeaningsOfReceivedFrames : Prop :=
  ∀ s, ReadyIdle s → InPhase s → s.cfg.settleSufficient = true →
    (∃ t, exec .clearDisplay s = .next t ∧ t.display.shown = []) ∧
    (∃ t, exec .displayOn s = .next t ∧ t.display.on = true) ∧
    (∃ t, exec .functionSet s = .next t ∧ t.display.functionSet = true) ∧
    ∀ c, ∃ t, exec (.character c) s = .next t ∧ t.display.shown = s.display.shown ++ [(s.display.addr, c)]

/-- 60_exceptions.md R101, R99: a settled line-1 address, of any column, sets the line-1 history, and a line-2 address
keeps it. With column 0 a line-1 address sets the pointer to the start of line 1; a line-2 address sets it to the start of
line 2 where the history is set, and else either does so or does nothing. The pointer after any other column is any value
(93_implementation_defined.md §1), and nothing is said of it: following that ruling beside R99's "plus the column offset"
is the model's reading (log entry 14). -/
def Obligations.LineAddressing : Prop :=
  ∀ s (col : BitVec 6), ReadyIdle s → InPhase s → s.cfg.settleSufficient = true →
    (∃ t, exec (.setAddress .line1 col) s = .next t ∧ t.display.line1Addressed = true ∧
      (col = 0#6 → t.display.addr = ⟨.line1, 0#6⟩)) ∧
    ∃ t, exec (.setAddress .line2 col) s = .next t ∧ t.display.line1Addressed = s.display.line1Addressed ∧
      (col = 0#6 → s.display.line1Addressed = true → t.display.addr = ⟨.line2, 0#6⟩) ∧
      (col = 0#6 → s.display.line1Addressed = false →
        t.display.addr = ⟨.line2, 0#6⟩ ∨ t.display.addr = s.display.addr)

/-- 60_exceptions.md R96, 70_reset_and_hazards.md R118: PORT_INIT's strobe, from any lines, driven or not. The direction
write latches nothing where EN is already driven, and at most one nibble where it is not (log entry 18). After it the
clearing write latches one nibble where EN is 1 in the latch, and none where it is 0. That it does latch, where R118 says
that the display may, is the model's reading of R96 (log entry 27). That an unchanged line of that nibble is latched at its level (0, since the write clears it) is the model's reading of R96 against the note of vector
V32, which calls the nibble a draw (log entry 17). -/
def Obligations.PortInitStrobe : Prop :=
  ∀ s, configValid s.cfg = true → s.fault = none →
    ∃ t pre, exec .portInit s = .next t ∧ pre.length ≤ 1 ∧
      (s.dirOut.testBit s.cfg.enBit = true → pre = []) ∧
      (s.out.testBit s.cfg.enBit = false → t.display.latches = s.display.latches ++ pre) ∧
      (s.out.testBit s.cfg.enBit = true →
        ∃ l, t.display.latches = s.display.latches ++ pre ++ [l] ∧
          (s.out.testBit s.cfg.rsBit = false → l.rs = false) ∧
          ∀ k, k < 4 → s.out.testBit (s.cfg.dataShift + k) = false → l.nib.getLsbD k = false)

/-- 70_reset_and_hazards.md R109, R112, 60_exceptions.md R101, 20_memory.md R36: PORT_INIT issued again latches nothing,
and its effect at the display is to forget the line-1 history and to leave the content, the pointer and the marks open
(log entry 25): the phase, with a pending half byte, stays. That R97's "first frame after PORT_INIT" is the run's first
frame, so that no phase is restored, is the model's choice (log entry 11). -/
def Obligations.ReinitKeepsPhase : Prop :=
  ∀ s, ReadyIdle s →
    ∃ t, exec .portInit s = .next t ∧ ReadyIdle t ∧ t.display.phase = s.display.phase ∧
      t.display.latches = s.display.latches ∧ t.display.received = s.display.received ∧
      t.display.busy = s.display.busy ∧ t.display.frameSeen = s.display.frameSeen ∧
      t.display.line1Addressed = false

/-- 70_reset_and_hazards.md §3 (R112), 60_exceptions.md R97: once the run's first frame has been sent, SEND_NIBBLE turns the
display from awaiting a high nibble to awaiting a low one and back, and no other instruction, PORT_INIT included, changes
which it awaits. That PORT_INIT does not is the model's choice beside R97 (log entry 11). -/
def Obligations.NoCommandRestoresPhase : Prop :=
  ∀ s t i, ReadyIdle s → s.display.frameSeen = true → s.display.phase ≠ .unknown → exec i s = .next t →
    ReadyIdle t ∧ t.display.frameSeen = true ∧ t.display.phase ≠ .unknown ∧
      awaitsLow t.display.phase =
        match i with
        | .sendNibble _ => !awaitsLow s.display.phase
        | _ => awaitsLow s.display.phase
end

