-- ==== Sys2Proof/Laws/Display.lean ====
section
/-! SUPPORT. What the display agent's operations can do, said once each. -/

namespace Sys2Proof.Machine

theorem latchNibble_high {n : Nat} {l : Latch} {d : Display} (h : d.phase = .high) :
    latchNibble n l d = { d with latches := d.latches ++ [l], phase := .low l d.busy } := by
  simp [latchNibble, h]

theorem latchNibble_low {n : Nat} {l hi : Latch} {e : Bool} {d : Display} (h : d.phase = .low hi e) :
    latchNibble n l d = receiveFrame n hi l e { d with latches := d.latches ++ [l] } := by
  simp [latchNibble, h]

/-- The history fields an effect leaves alone. -/
theorem frameEffect_record (n : Nat) (f : Frame) (d : Display) :
    (frameEffect n f d).received = d.received ∧ (frameEffect n f d).latches = d.latches
      ∧ (frameEffect n f d).phase = d.phase ∧ (frameEffect n f d).busy = d.busy
      ∧ (frameEffect n f d).frameSeen = d.frameSeen := by
  unfold frameEffect
  split <;> try exact ⟨rfl, rfl, rfl, rfl, rfl⟩
  rename_i l col _
  cases l <;> exact ⟨rfl, rfl, rfl, rfl, rfl⟩

/-- Receiving a frame records it, leaves the display busy and awaiting a high nibble. -/
theorem receiveFrame_record (n : Nat) (hi lo : Latch) (e : Bool) (d : Display) (h : hi.rs = lo.rs) :
    (receiveFrame n hi lo e d).received = d.received ++ [⟨mkFrame lo.rs (hi.nib ++ lo.nib), !e⟩]
      ∧ (receiveFrame n hi lo e d).latches = d.latches ∧ (receiveFrame n hi lo e d).phase = .high
      ∧ (receiveFrame n hi lo e d).busy = true ∧ (receiveFrame n hi lo e d).frameSeen = d.frameSeen := by
  unfold receiveFrame
  cases e
  · simp only [h, if_true, Bool.false_eq_true, if_false]
    obtain ⟨a, b, c, x, y⟩ := frameEffect_record n (mkFrame lo.rs (hi.nib ++ lo.nib))
      { d with received := d.received ++ [⟨mkFrame lo.rs (hi.nib ++ lo.nib), !false⟩], busy := true, phase := .high }
    exact ⟨a, b, c, x, y⟩
  · simp [h, unspecifiedEffect]

/-- Receiving a frame latches nothing and starts none, whatever its RS levels. -/
theorem receiveFrame_latches (n : Nat) (hi lo : Latch) (e : Bool) (d : Display) :
    (receiveFrame n hi lo e d).latches = d.latches := by
  unfold receiveFrame
  cases e
  · exact (frameEffect_record n _ _).2.1
  · rfl

theorem receiveFrame_frameSeen (n : Nat) (hi lo : Latch) (e : Bool) (d : Display) :
    (receiveFrame n hi lo e d).frameSeen = d.frameSeen := by
  unfold receiveFrame
  cases e
  · exact (frameEffect_record n _ _).2.2.2.2
  · rfl

@[simp] theorem seePortInit_phase (n : Nat) (d : Display) : (seePortInit n d).phase = d.phase := rfl
@[simp] theorem seePortInit_line1Addressed (n : Nat) (d : Display) : (seePortInit n d).line1Addressed = false := rfl
@[simp] theorem seePortInit_busy (n : Nat) (d : Display) : (seePortInit n d).busy = d.busy := rfl
@[simp] theorem seePortInit_latches (n : Nat) (d : Display) : (seePortInit n d).latches = d.latches := rfl
@[simp] theorem seePortInit_received (n : Nat) (d : Display) : (seePortInit n d).received = d.received := rfl
@[simp] theorem seePortInit_frameSeen (n : Nat) (d : Display) : (seePortInit n d).frameSeen = d.frameSeen := rfl

/-- A frame that is not the run's first leaves the phase alone (R112). -/
theorem seeFrameStart_seen {p : Bool} {d : Display} (h : d.frameSeen = true) : seeFrameStart p d = d := by
  simp [seeFrameStart, h]

/-- A latch counts: it turns a display that awaits a high nibble into one that awaits a low one, and back. -/
theorem latchNibble_phase {n : Nat} {l : Latch} {d : Display} (h : d.phase ≠ .unknown) :
    (∀ hi e, d.phase = .low hi e → (latchNibble n l d).phase = .high)
      ∧ (d.phase = .high → (latchNibble n l d).phase = .low l d.busy) := by
  refine ⟨fun hi e hd => ?_, fun hd => by rw [latchNibble_high hd]⟩
  rw [latchNibble_low hd]
  unfold receiveFrame
  cases e
  · exact (frameEffect_record n _ _).2.2.1
  · rfl

/-- Every latch is recorded. -/
theorem latchNibble_latches (n : Nat) (l : Latch) (d : Display) :
    (latchNibble n l d).latches = d.latches ++ [l] := by
  unfold latchNibble
  split
  · rfl
  · rw [receiveFrame_latches]
  · split
    · rfl
    · rw [receiveFrame_latches]

/-- Only the start of a frame writes this mark. -/
theorem latchNibble_frameSeen (n : Nat) (l : Latch) (d : Display) :
    (latchNibble n l d).frameSeen = d.frameSeen := by
  unfold latchNibble
  split
  · rfl
  · rw [receiveFrame_frameSeen]
  · split
    · rfl
    · rw [receiveFrame_frameSeen]

/-- A write latches one nibble or none; where none, it changes nothing. -/
theorem seeWrite_latches (c : Config) (n : Nat) (out dir out' dir' : PortWord) (d : Display) :
    (∃ pre : List Latch, pre.length ≤ 1 ∧ (seeWrite c n out dir out' dir' d).latches = d.latches ++ pre)
      ∧ (seeWrite c n out dir out' dir' d).frameSeen = d.frameSeen
      ∧ (latchHappens c n out dir out' dir' = false → seeWrite c n out dir out' dir' d = d) := by
  unfold seeWrite
  cases latchHappens c n out dir out' dir'
  · exact ⟨⟨[], by simp⟩, rfl, fun _ => rfl⟩
  · exact ⟨⟨[_], by simp, latchNibble_latches _ _ _⟩, latchNibble_frameSeen _ _ _, fun h => nomatch h⟩

end Sys2Proof.Machine
end

