-- ==== Sys2Proof/Laws/State.lean ====
section
/-! SUPPORT. One lemma per field of State for each operation that updates it, true by definition. -/

namespace Sys2Proof.Machine

@[simp] theorem writeOut_out (v : PortWord) (s : State) : (writeOut v s).out = v := rfl
@[simp] theorem writeOut_dirOut (v : PortWord) (s : State) : (writeOut v s).dirOut = s.dirOut := rfl
@[simp] theorem writeOut_ready (v : PortWord) (s : State) : (writeOut v s).ready = s.ready := rfl
@[simp] theorem writeOut_fault (v : PortWord) (s : State) : (writeOut v s).fault = s.fault := rfl
@[simp] theorem writeOut_trace (v : PortWord) (s : State) : (writeOut v s).trace = s.trace ++ [.outW v] := rfl
@[simp] theorem writeOut_pc (v : PortWord) (s : State) : (writeOut v s).pc = s.pc := rfl
@[simp] theorem writeOut_cfg (v : PortWord) (s : State) : (writeOut v s).cfg = s.cfg := rfl
@[simp] theorem writeOut_program (v : PortWord) (s : State) : (writeOut v s).program = s.program := rfl
@[simp] theorem writeOut_callers (v : PortWord) (s : State) : (writeOut v s).callers = s.callers := rfl
@[simp] theorem writeOut_display (v : PortWord) (s : State) : (writeOut v s).display = seeWrite s.cfg s.draws s.out s.dirOut v s.dirOut s.display := rfl
@[simp] theorem writeOut_draws (v : PortWord) (s : State) : (writeOut v s).draws = s.draws + 1 := rfl

@[simp] theorem writeDir_out (v : PortWord) (s : State) : (writeDir v s).out = s.out := rfl
@[simp] theorem writeDir_dirOut (v : PortWord) (s : State) : (writeDir v s).dirOut = v := rfl
@[simp] theorem writeDir_ready (v : PortWord) (s : State) : (writeDir v s).ready = s.ready := rfl
@[simp] theorem writeDir_fault (v : PortWord) (s : State) : (writeDir v s).fault = s.fault := rfl
@[simp] theorem writeDir_trace (v : PortWord) (s : State) : (writeDir v s).trace = s.trace ++ [.dirW v] := rfl
@[simp] theorem writeDir_pc (v : PortWord) (s : State) : (writeDir v s).pc = s.pc := rfl
@[simp] theorem writeDir_cfg (v : PortWord) (s : State) : (writeDir v s).cfg = s.cfg := rfl
@[simp] theorem writeDir_program (v : PortWord) (s : State) : (writeDir v s).program = s.program := rfl
@[simp] theorem writeDir_callers (v : PortWord) (s : State) : (writeDir v s).callers = s.callers := rfl
@[simp] theorem writeDir_display (v : PortWord) (s : State) : (writeDir v s).display = seeWrite s.cfg s.draws s.out s.dirOut s.out v s.display := rfl
@[simp] theorem writeDir_draws (v : PortWord) (s : State) : (writeDir v s).draws = s.draws + 1 := rfl

@[simp] theorem waitFor_out (k : WaitKind) (s : State) : (waitFor k s).out = s.out := rfl
@[simp] theorem waitFor_dirOut (k : WaitKind) (s : State) : (waitFor k s).dirOut = s.dirOut := rfl
@[simp] theorem waitFor_ready (k : WaitKind) (s : State) : (waitFor k s).ready = s.ready := rfl
@[simp] theorem waitFor_fault (k : WaitKind) (s : State) : (waitFor k s).fault = s.fault := rfl
@[simp] theorem waitFor_trace (k : WaitKind) (s : State) : (waitFor k s).trace = s.trace ++ [.waitE k] := rfl
@[simp] theorem waitFor_pc (k : WaitKind) (s : State) : (waitFor k s).pc = s.pc := rfl
@[simp] theorem waitFor_cfg (k : WaitKind) (s : State) : (waitFor k s).cfg = s.cfg := rfl
@[simp] theorem waitFor_program (k : WaitKind) (s : State) : (waitFor k s).program = s.program := rfl
@[simp] theorem waitFor_callers (k : WaitKind) (s : State) : (waitFor k s).callers = s.callers := rfl
@[simp] theorem waitFor_display (k : WaitKind) (s : State) : (waitFor k s).display = seeWait s.cfg k s.display := rfl
@[simp] theorem waitFor_draws (k : WaitKind) (s : State) : (waitFor k s).draws = s.draws := rfl

@[simp] theorem advance_out (s : State) : (advance s).out = s.out := rfl
@[simp] theorem advance_dirOut (s : State) : (advance s).dirOut = s.dirOut := rfl
@[simp] theorem advance_ready (s : State) : (advance s).ready = s.ready := rfl
@[simp] theorem advance_fault (s : State) : (advance s).fault = s.fault := rfl
@[simp] theorem advance_trace (s : State) : (advance s).trace = s.trace := rfl
@[simp] theorem advance_pc (s : State) : (advance s).pc = s.pc + 1 := rfl
@[simp] theorem advance_cfg (s : State) : (advance s).cfg = s.cfg := rfl
@[simp] theorem advance_program (s : State) : (advance s).program = s.program := rfl
@[simp] theorem advance_callers (s : State) : (advance s).callers = s.callers := rfl
@[simp] theorem advance_display (s : State) : (advance s).display = s.display := rfl
@[simp] theorem advance_draws (s : State) : (advance s).draws = s.draws := rfl

@[simp] theorem raiseUninit_out (i : Instr) (s : State) : (raiseUninit i s).out = s.out := rfl
@[simp] theorem raiseUninit_dirOut (i : Instr) (s : State) : (raiseUninit i s).dirOut = s.dirOut := rfl
@[simp] theorem raiseUninit_ready (i : Instr) (s : State) : (raiseUninit i s).ready = s.ready := rfl
@[simp] theorem raiseUninit_fault (i : Instr) (s : State) : (raiseUninit i s).fault = some (.uninit i s.pc) := rfl
@[simp] theorem raiseUninit_trace (i : Instr) (s : State) : (raiseUninit i s).trace = s.trace := rfl
@[simp] theorem raiseUninit_pc (i : Instr) (s : State) : (raiseUninit i s).pc = s.pc := rfl
@[simp] theorem raiseUninit_cfg (i : Instr) (s : State) : (raiseUninit i s).cfg = s.cfg := rfl
@[simp] theorem raiseUninit_program (i : Instr) (s : State) : (raiseUninit i s).program = s.program := rfl
@[simp] theorem raiseUninit_callers (i : Instr) (s : State) : (raiseUninit i s).callers = s.callers := rfl
@[simp] theorem raiseUninit_display (i : Instr) (s : State) : (raiseUninit i s).display = s.display := rfl
@[simp] theorem raiseUninit_draws (i : Instr) (s : State) : (raiseUninit i s).draws = s.draws := rfl

@[simp] theorem startFrame_out (s : State) : (startFrame s).out = s.out := rfl
@[simp] theorem startFrame_dirOut (s : State) : (startFrame s).dirOut = s.dirOut := rfl
@[simp] theorem startFrame_ready (s : State) : (startFrame s).ready = s.ready := rfl
@[simp] theorem startFrame_fault (s : State) : (startFrame s).fault = s.fault := rfl
@[simp] theorem startFrame_trace (s : State) : (startFrame s).trace = s.trace := rfl
@[simp] theorem startFrame_pc (s : State) : (startFrame s).pc = s.pc := rfl
@[simp] theorem startFrame_cfg (s : State) : (startFrame s).cfg = s.cfg := rfl
@[simp] theorem startFrame_program (s : State) : (startFrame s).program = s.program := rfl
@[simp] theorem startFrame_callers (s : State) : (startFrame s).callers = s.callers := rfl
@[simp] theorem startFrame_display (s : State) : (startFrame s).display = seeFrameStart (s.cfg.displayInPhase && bootOrderMet s) s.display := rfl
@[simp] theorem startFrame_draws (s : State) : (startFrame s).draws = s.draws := rfl

theorem State_eq_of_fields (s t : State) (h1 : s.out = t.out) (h2 : s.dirOut = t.dirOut) (h3 : s.ready = t.ready)
    (h4 : s.fault = t.fault) (h5 : s.trace = t.trace) (h6 : s.pc = t.pc) (h7 : s.cfg = t.cfg)
    (h8 : s.program = t.program) (h9 : s.callers = t.callers) (h10 : s.display = t.display)
    (h11 : s.draws = t.draws) : s = t := by
  cases s; cases t; simp_all

end Sys2Proof.Machine
end

