-- ==== Sys2Proof/Laws/Word.lean ====
section
/-! SUPPORT. The bits of the words that Machine/Operands.lean makes: one lemma per operation and per mask. -/

namespace Sys2Proof.Machine

theorem testBit_wordOr (w a b i : Nat) :
    (wordOr w a b).testBit i = (decide (i < w) && (a.testBit i || b.testBit i)) := by
  simp only [wordOr, BitVec.toNat_or, Nat.testBit_or, BitVec.toNat_ofNat, Nat.testBit_mod_two_pow]
  cases decide (i < w) <;> simp

theorem testBit_wordAndNot (w a m i : Nat) :
    (wordAndNot w a m).testBit i = (decide (i < w) && (a.testBit i && !m.testBit i)) := by
  have h : (wordAndNot w a m).testBit i = (BitVec.ofNat w a &&& ~~~ BitVec.ofNat w m).getLsbD i := rfl
  rw [h, BitVec.getLsbD_and, BitVec.getLsbD_not, BitVec.getLsbD_ofNat, BitVec.getLsbD_ofNat]
  by_cases hi : i < w <;> simp [hi]

theorem testBit_wordNot (w a i : Nat) : (wordNot w a).testBit i = (decide (i < w) && !a.testBit i) := by
  have h : (wordNot w a).testBit i = (~~~ BitVec.ofNat w a).getLsbD i := rfl
  rw [h, BitVec.getLsbD_not, BitVec.getLsbD_ofNat]
  by_cases hi : i < w <;> simp [hi]

theorem testBit_allOnes (w i : Nat) : (allOnes w).testBit i = decide (i < w) := by
  have h : (allOnes w).testBit i = (BitVec.allOnes w).getLsbD i := rfl
  rw [h, BitVec.getLsbD_allOnes]

theorem testBit_shifted (w v k i : Nat) :
    ((BitVec.ofNat w v) <<< k).toNat.testBit i = (decide (i < w) && (decide (k ≤ i) && v.testBit (i - k))) := by
  have h : ((BitVec.ofNat w v) <<< k).toNat.testBit i = ((BitVec.ofNat w v) <<< k).getLsbD i := rfl
  rw [h, BitVec.getLsbD_shiftLeft, BitVec.getLsbD_ofNat]
  by_cases hi : i < w <;> by_cases hk : k ≤ i
  · have : i - k < w := by omega
    simp [hi, hk, this, Nat.not_lt.mpr hk]
  · simp [hi, hk, Nat.lt_of_not_le hk]
  · simp [hi]
  · simp [hi]

theorem testBit_one_nat (j : Nat) : (1 : Nat).testBit j = decide (j = 0) := by
  have h : (1 : Nat) = 2 ^ 1 - 1 := rfl
  rw [h, Nat.testBit_two_pow_sub_one]
  simp

theorem testBit_rsM (c : Config) (i : Nat) :
    (rsM c).testBit i = (decide (i < c.portWidth) && decide (i = c.rsBit)) := by
  rw [rsM, testBit_shifted, testBit_one_nat]
  congr 1
  by_cases h : i = c.rsBit
  · simp [h]
  · by_cases hk : c.rsBit ≤ i
    · have : i - c.rsBit ≠ 0 := by omega
      simp [h, this]
    · simp [h, hk]

theorem testBit_enM (c : Config) (i : Nat) :
    (enM c).testBit i = (decide (i < c.portWidth) && decide (i = c.enBit)) := by
  rw [enM, testBit_shifted, testBit_one_nat]
  congr 1
  by_cases h : i = c.enBit
  · simp [h]
  · by_cases hk : c.enBit ≤ i
    · have : i - c.enBit ≠ 0 := by omega
      simp [h, this]
    · simp [h, hk]

theorem testBit_fifteen (j : Nat) : (15 : Nat).testBit j = decide (j < 4) := by
  have h : (15 : Nat) = 2 ^ 4 - 1 := rfl
  rw [h, Nat.testBit_two_pow_sub_one]

theorem testBit_dataM (c : Config) (i : Nat) :
    (dataM c).testBit i
      = (decide (i < c.portWidth) && (decide (c.dataShift ≤ i) && decide (i ≤ c.dataShift + 3))) := by
  rw [dataM, testBit_shifted, testBit_fifteen]
  by_cases hk : c.dataShift ≤ i
  · have : (i - c.dataShift < 4) ↔ (i ≤ c.dataShift + 3) := by omega
    simp [hk, this]
  · simp [hk]

theorem testBit_lcdM (c : Config) (i : Nat) :
    (lcdM c).testBit i = (decide (i < c.portWidth) &&
      (decide (i = c.rsBit) || decide (i = c.enBit) || (decide (c.dataShift ≤ i) && decide (i ≤ c.dataShift + 3)))) := by
  simp only [lcdM, testBit_wordOr, testBit_rsM, testBit_enM, testBit_dataM]
  by_cases hi : i < c.portWidth <;> simp [hi]

theorem testBit_otherM (c : Config) (i : Nat) :
    (otherM c).testBit i = (decide (i < c.portWidth) &&
      !(decide (i = c.rsBit) || decide (i = c.enBit) || (decide (c.dataShift ≤ i) && decide (i ≤ c.dataShift + 3)))) := by
  simp only [otherM, testBit_wordNot, testBit_lcdM]
  by_cases hi : i < c.portWidth <;> simp [hi]

theorem testBit_placeNibble (c : Config) (v : Nibble) (i : Nat) :
    (placeNibble c v).testBit i
      = (decide (i < c.portWidth) && (decide (c.dataShift ≤ i) && v.toNat.testBit (i - c.dataShift))) := by
  have h : placeNibble c v = ((BitVec.ofNat c.portWidth v.toNat) <<< c.dataShift).toNat := by
    simp [placeNibble, BitVec.toNat_setWidth, BitVec.toNat_shiftLeft]
  rw [h, testBit_shifted]

theorem nibble_testBit_lt (v : Nibble) (j : Nat) (h : v.toNat.testBit j = true) : j < 4 := by
  by_contra hj
  have : v.toNat.testBit j = false :=
    Nat.testBit_lt_two_pow (Nat.lt_of_lt_of_le v.isLt (Nat.pow_le_pow_right (by decide) (by omega)))
  simp [this] at h

theorem wordOr_lt (w a b : Nat) : wordOr w a b < 2 ^ w := (BitVec.isLt _)

theorem wordAndNot_lt (w a m : Nat) : wordAndNot w a m < 2 ^ w := (BitVec.isLt _)

theorem wordNot_lt (w a : Nat) : wordNot w a < 2 ^ w := (BitVec.isLt _)

theorem allOnes_lt (w : Nat) : allOnes w < 2 ^ w := (BitVec.isLt _)

/-- Bits at or above the width of a number in range are clear. -/
theorem testBit_ge_width {w a i : Nat} (h : a < 2 ^ w) (hi : w ≤ i) : a.testBit i = false :=
  Nat.testBit_lt_two_pow (Nat.lt_of_lt_of_le h (Nat.pow_le_pow_right (by decide) hi))

/-- The constraints of R7, as propositions. -/
theorem configValid_iff (c : Config) :
    configValid c = true ↔
      c.dataShift + 3 < c.portWidth ∧ c.rsBit < c.portWidth ∧ c.enBit < c.portWidth ∧ c.rsBit ≠ c.enBit
        ∧ ¬ (c.dataShift ≤ c.rsBit ∧ c.rsBit ≤ c.dataShift + 3)
        ∧ ¬ (c.dataShift ≤ c.enBit ∧ c.enBit ≤ c.dataShift + 3) := by
  simp only [configValid, Bool.and_eq_true, decide_eq_true_eq, and_assoc]

/-- The bits of a nibble made of four levels. -/
theorem nibbleOfBits_testBits (v : Nibble) :
    nibbleOfBits (v.toNat.testBit 0) (v.toNat.testBit 1) (v.toNat.testBit 2) (v.toNat.testBit 3) = v := by
  revert v; decide

end Sys2Proof.Machine
end

