-- ==== Sys2Proof/Laws/Ops.lean ====
section
/-! SUPPORT. What the shared operations can do, said once: completion and inversion of the command wrappers, of exec,
and the fields the bodies leave alone. -/

namespace Sys2Proof.Machine

/-! ## The wrappers -/

theorem unlessFaulted_none {s : State} (h : s.fault = none) (k : Host.Outcome State Fault Refusal) :
    unlessFaulted s k = k := by
  simp [unlessFaulted, h]

theorem unlessFaulted_some {s : State} {f : Fault} (h : s.fault = some f) (k : Host.Outcome State Fault Refusal) :
    unlessFaulted s k = .fault f := by
  simp [unlessFaulted, h]

theorem transfer_ready {i : Instr} {body : State → State} {s : State} (hf : s.fault = none) (hr : s.ready = true) :
    transfer i body s = .next (advance (body s)) := by
  simp [transfer, unlessFaulted, hf, hr]

theorem transfer_uninit {i : Instr} {body : State → State} {s : State} (hf : s.fault = none) (hr : s.ready = false) :
    transfer i body s = .next (raiseUninit i s) := by
  simp [transfer, unlessFaulted, hf, hr]

theorem always_none {body : State → State} {s : State} (hf : s.fault = none) :
    always body s = .next (advance (body s)) := by
  simp [always, unlessFaulted, hf]

/-- If a transfer answers a next state, then either it completed or it raised `UNINIT`. -/
theorem transfer_next {i : Instr} {body : State → State} {s t : State} (h : transfer i body s = .next t) :
    s.fault = none ∧ ((s.ready = true ∧ t = advance (body s)) ∨ (s.ready = false ∧ t = raiseUninit i s)) := by
  cases hf : s.fault with
  | some f => simp [transfer, unlessFaulted, hf] at h
  | none =>
    cases hr : s.ready with
    | true => rw [transfer_ready hf hr] at h; cases h; simp
    | false => rw [transfer_uninit hf hr] at h; cases h; simp

theorem always_next {body : State → State} {s t : State} (h : always body s = .next t) :
    s.fault = none ∧ t = advance (body s) := by
  cases hf : s.fault with
  | some f => simp [always, unlessFaulted, hf] at h
  | none => rw [always_none hf] at h; cases h; simp

/-! ## exec -/

/-- What an instruction does to the state when it runs, `pc` apart. -/
def bodyOf : Instr → State → State
  | .clearDisplay => frameBody false (enc .clear)
  | .returnHome => frameBody false (enc .home)
  | .displayOn => frameBody false (enc .dispon)
  | .functionSet => frameBody false (enc .fset)
  | .setAddress l col => frameBody false (enc (.setaddr l col))
  | .character c => frameBody true c
  | .sendNibble v => nibbleBody v
  | .sendByte b => byteBody b
  | .sendInstruction code => frameBody false (enc code)
  | .sendCharacter c => frameBody true c
  | .portInit => portInitBody
  | .wait k => waitFor k

theorem exec_transfer (i : Instr) (h : i.isTransfer = true) (s : State) :
    exec i s = transfer i (bodyOf i) s := by
  cases i <;> first | rfl | simp [Instr.isTransfer] at h

theorem exec_always (i : Instr) (h : i.isTransfer = false) (s : State) : exec i s = always (bodyOf i) s := by
  cases i <;> first | rfl | simp [Instr.isTransfer] at h

/-- If exec answers a next state, then no fault was marked, and the instruction either ran, or is a transfer that
raised `UNINIT`. -/
theorem exec_next {i : Instr} {s t : State} (h : exec i s = .next t) :
    s.fault = none ∧
      ((i.isTransfer = false ∨ s.ready = true) ∧ t = advance (bodyOf i s) ∨
        (i.isTransfer = true ∧ s.ready = false ∧ t = raiseUninit i s)) := by
  cases hi : i.isTransfer with
  | true =>
    rw [exec_transfer i hi] at h
    obtain ⟨hf, ⟨hr, ht⟩ | ⟨hr, ht⟩⟩ := transfer_next h
    · exact ⟨hf, .inl ⟨.inr hr, ht⟩⟩
    · exact ⟨hf, .inr ⟨rfl, hr, ht⟩⟩
  | false =>
    rw [exec_always i hi] at h
    obtain ⟨hf, ht⟩ := always_next h
    exact ⟨hf, .inl ⟨.inl rfl, ht⟩⟩

/-! ## Fields the bodies leave alone -/

/-- What every body but PORT_INIT's keeps: everything but `OUT`, the trace, the display and the draw count. -/
def Keeps (s t : State) : Prop :=
  t.dirOut = s.dirOut ∧ t.ready = s.ready ∧ t.fault = s.fault ∧ t.pc = s.pc ∧ t.cfg = s.cfg ∧ t.program = s.program
    ∧ t.callers = s.callers

theorem Keeps.refl (s : State) : Keeps s s := ⟨rfl, rfl, rfl, rfl, rfl, rfl, rfl⟩

theorem Keeps.trans {s t u : State} (h : Keeps s t) (k : Keeps t u) : Keeps s u := by
  obtain ⟨a, b, c, d, e, f, g⟩ := h
  obtain ⟨a', b', c', d', e', f', g'⟩ := k
  exact ⟨a'.trans a, b'.trans b, c'.trans c, d'.trans d, e'.trans e, f'.trans f, g'.trans g⟩

theorem pinSet_keeps (m : PortWord) (s : State) : Keeps s (pinSet m s) := ⟨rfl, rfl, rfl, rfl, rfl, rfl, rfl⟩

theorem pinClr_keeps (m : PortWord) (s : State) : Keeps s (pinClr m s) := ⟨rfl, rfl, rfl, rfl, rfl, rfl, rfl⟩

theorem waitFor_keeps (k : WaitKind) (s : State) : Keeps s (waitFor k s) := ⟨rfl, rfl, rfl, rfl, rfl, rfl, rfl⟩

theorem startFrame_keeps (s : State) : Keeps s (startFrame s) := ⟨rfl, rfl, rfl, rfl, rfl, rfl, rfl⟩

theorem nibbleBody_keeps (v : Nibble) (s : State) : Keeps s (nibbleBody v s) := ⟨rfl, rfl, rfl, rfl, rfl, rfl, rfl⟩

theorem byteBody_keeps (b : Byte) (s : State) : Keeps s (byteBody b s) :=
  (nibbleBody_keeps _ s).trans (nibbleBody_keeps _ _)

theorem writeRs_keeps (rs : Bool) (s : State) : Keeps s (writeRs rs s) := by
  cases rs
  · exact pinClr_keeps _ s
  · exact pinSet_keeps _ s

theorem frameBody_keeps (rs : Bool) (b : Byte) (s : State) : Keeps s (frameBody rs b s) :=
  (waitFor_keeps .settle s).trans ((writeRs_keeps rs _).trans ((startFrame_keeps _).trans (byteBody_keeps b _)))

/-- Every instruction but PORT_INIT keeps these fields while it runs. -/
theorem bodyOf_keeps {i : Instr} (h : i ≠ .portInit) (s : State) : Keeps s (bodyOf i s) := by
  cases i with
  | portInit => exact absurd rfl h
  | wait k => exact waitFor_keeps k s
  | sendNibble v => exact nibbleBody_keeps v s
  | sendByte b => exact byteBody_keeps b s
  | clearDisplay => exact frameBody_keeps _ _ s
  | returnHome => exact frameBody_keeps _ _ s
  | displayOn => exact frameBody_keeps _ _ s
  | functionSet => exact frameBody_keeps _ _ s
  | setAddress l col => exact frameBody_keeps _ _ s
  | character c => exact frameBody_keeps _ _ s
  | sendInstruction code => exact frameBody_keeps _ _ s
  | sendCharacter c => exact frameBody_keeps _ _ s

/-- PORT_INIT changes the two registers, `ready`, the trace, the display and the draw count, and nothing else. -/
theorem portInitBody_keeps (s : State) :
    (portInitBody s).ready = true ∧ (portInitBody s).fault = s.fault ∧ (portInitBody s).pc = s.pc
      ∧ (portInitBody s).cfg = s.cfg ∧ (portInitBody s).program = s.program
      ∧ (portInitBody s).callers = s.callers := by
  unfold portInitBody portInitWrites
  cases s.cfg.portInitScope <;> exact ⟨rfl, rfl, rfl, rfl, rfl, rfl⟩

/-! ## The value of OUT after each primitive -/

@[simp] theorem pinSet_out (m : PortWord) (s : State) : (pinSet m s).out = wordOr s.cfg.portWidth s.out m := rfl

@[simp] theorem pinClr_out (m : PortWord) (s : State) : (pinClr m s).out = wordAndNot s.cfg.portWidth s.out m := rfl

@[simp] theorem pinSet_cfg (m : PortWord) (s : State) : (pinSet m s).cfg = s.cfg := rfl

@[simp] theorem pinClr_cfg (m : PortWord) (s : State) : (pinClr m s).cfg = s.cfg := rfl

@[simp] theorem pinSet_dirOut (m : PortWord) (s : State) : (pinSet m s).dirOut = s.dirOut := rfl

@[simp] theorem pinClr_dirOut (m : PortWord) (s : State) : (pinClr m s).dirOut = s.dirOut := rfl

@[simp] theorem pinSet_draws (m : PortWord) (s : State) : (pinSet m s).draws = s.draws + 1 := rfl

@[simp] theorem pinClr_draws (m : PortWord) (s : State) : (pinClr m s).draws = s.draws + 1 := rfl

@[simp] theorem pinSet_trace (m : PortWord) (s : State) :
    (pinSet m s).trace = s.trace ++ [.outW (wordOr s.cfg.portWidth s.out m)] := rfl

@[simp] theorem pinClr_trace (m : PortWord) (s : State) :
    (pinClr m s).trace = s.trace ++ [.outW (wordAndNot s.cfg.portWidth s.out m)] := rfl

/-- The four values of `OUT` in a nibble cycle are the only events it appends. -/
theorem nibbleBody_trace (v : Nibble) (s : State) :
    (nibbleBody v s).trace = s.trace ++
      [.outW (wordOr s.cfg.portWidth s.out (enM s.cfg)),
       .outW (wordOr s.cfg.portWidth (wordOr s.cfg.portWidth s.out (enM s.cfg)) (placeNibble s.cfg v)),
       .outW (wordAndNot s.cfg.portWidth
         (wordOr s.cfg.portWidth (wordOr s.cfg.portWidth s.out (enM s.cfg)) (placeNibble s.cfg v)) (enM s.cfg)),
       .outW (nibbleBody v s).out] := by
  simp [nibbleBody]

/-- A nibble cycle leaves every bit outside EN and the data lines as it was. -/
theorem nibbleBody_out_testBit (v : Nibble) (s : State) (i : Nat) (hi : i < s.cfg.portWidth)
    (he : i ≠ s.cfg.enBit) (hd : ¬ (s.cfg.dataShift ≤ i ∧ i ≤ s.cfg.dataShift + 3)) :
    (nibbleBody v s).out.testBit i = s.out.testBit i := by
  have hv : (decide (s.cfg.dataShift ≤ i) && v.toNat.testBit (i - s.cfg.dataShift)) = false := by
    by_cases hk : s.cfg.dataShift ≤ i
    · have : v.toNat.testBit (i - s.cfg.dataShift) = false := by
        by_contra hb
        have := nibble_testBit_lt v (i - s.cfg.dataShift) (by simpa using hb)
        omega
      simp [this]
    · simp [hk]
  have hd' : (decide (s.cfg.dataShift ≤ i) && decide (i ≤ s.cfg.dataShift + 3)) = false := by
    simpa using hd
  simp [nibbleBody, testBit_wordAndNot, testBit_wordOr, testBit_enM, testBit_dataM, testBit_placeNibble, hi, he, hv, hd']

end Sys2Proof.Machine
end

