-- ==== Sys2Proof/Laws/PerInstr.lean ====
section
/-! SUPPORT. The per-instruction family: the written form of every instruction is well formed (30_encoding.md R52). -/

namespace Sys2Proof.Laws.EncodeWellFormed

/-- The encoder's command for `i` passes the checks of R52 and R57. -/
def Statement (i : Instr) : Prop := (encode i).wellFormed = true

theorem clearDisplay : Statement .clearDisplay := rfl
theorem returnHome : Statement .returnHome := rfl
theorem displayOn : Statement .displayOn := rfl
theorem functionSet : Statement .functionSet := rfl

theorem setAddress (l : Line) (col : BitVec 6) : Statement (.setAddress l col) := by
  cases l <;> revert col <;> unfold Statement <;> decide

theorem character (c : Byte) : Statement (.character c) := by
  revert c; unfold Statement; decide

theorem sendNibble (v : Nibble) : Statement (.sendNibble v) := by
  have := v.isLt
  simp only [Statement, encode, Command.wellFormed, decide_eq_true_eq]; omega

theorem sendByte (b : Byte) : Statement (.sendByte b) := by
  have := b.isLt
  simp only [Statement, encode, Command.wellFormed, decide_eq_true_eq]; omega

theorem sendInstruction (code : InstrCode) : Statement (.sendInstruction code) := by
  cases code with
  | setaddr l col =>
    have := col.isLt
    cases l <;> simp [Statement, encode, encodeCode, Command.wellFormed, SourceCode.wellFormed] <;> omega
  | clear => rfl
  | home => rfl
  | dispon => rfl
  | fset => rfl

theorem sendCharacter (c : Byte) : Statement (.sendCharacter c) := by
  have := c.isLt
  simp only [Statement, encode, Command.wellFormed, decide_eq_true_eq]; omega

theorem portInit : Statement .portInit := rfl

theorem wait (k : WaitKind) : Statement (.wait k) := rfl

end Sys2Proof.Laws.EncodeWellFormed
end

