-- ==== Sys2Proof/Laws/Step.lean ====
section
/-! SUPPORT. What a step can do, said once: inversion of fetch, transcription and step. -/

namespace Sys2Proof.Machine

/-- R86: a launch passes exactly with parameters that keep R7 and one caller at most. -/
theorem launchRefusal_none (s : State) : launchRefusal s = none ↔ configValid s.cfg = true ∧ s.callers ≤ 1 := by
  unfold launchRefusal
  cases configValid s.cfg <;> by_cases h : 1 < s.callers <;> simp [h, Nat.le_of_not_lt]

/-- The only instruction fetch answers is the transcribed command at `pc` of a launch that is not refused. -/
theorem fetch_ok {s : State} {i : Instr} (h : fetch s = .ok i) :
    launchRefusal s = none ∧ ∃ is, transcribe s.program = .ok is ∧ is[s.pc]? = some i := by
  unfold fetch at h
  split at h
  · simp at h
  · rename_i hl
    split at h
    · simp at h
    · rename_i is ht
      split at h
      · rename_i j hj
        simp only [Except.ok.injEq] at h
        subst h
        exact ⟨hl, is, ht, hj⟩
      · simp at h

theorem fetch_of {s : State} {i : Instr} {is : List Instr} (hl : launchRefusal s = none)
    (ht : transcribe s.program = .ok is) (hi : is[s.pc]? = some i) : fetch s = .ok i := by
  simp [fetch, hl, ht, hi]

/-- If a step answers a next state, it is exec of the fetched instruction, from a state with no fault mark. -/
theorem step_next {s t : State} (h : step s = .next t) :
    s.fault = none ∧ ∃ i, fetch s = .ok i ∧ exec i s = .next t := by
  unfold step at h
  split at h
  · simp at h
  · rename_i hf
    split at h
    · simp at h
    · rename_i i hi
      exact ⟨hf, i, hi, h⟩

theorem step_of_fetch {s : State} {i : Instr} (hf : s.fault = none) (h : fetch s = .ok i) : step s = exec i s := by
  simp [step, hf, h]

/-- Transcription keeps the length of the list. -/
theorem transcribe_length {cs : List SourceCommand} {is : List Instr} (h : transcribe cs = .ok is) :
    is.length = cs.length := by
  induction cs generalizing is with
  | nil => simp [transcribe] at h; simp [← h]
  | cons c cs ih =>
    unfold transcribe at h
    split at h
    · simp at h
    · split at h
      · simp at h
      · rename_i js hj
        simp only [Except.ok.injEq] at h
        subst h
        simp [ih hj]

/-- The instruction at a place of a transcribed list is the decoded command there. -/
theorem transcribe_getElem {cs : List SourceCommand} {is : List Instr} (h : transcribe cs = .ok is)
    {k : Nat} {i : Instr} (hi : is[k]? = some i) : ∃ c, cs[k]? = some c ∧ decode c.command = .ok i := by
  induction cs generalizing is k with
  | nil =>
    simp only [transcribe, Except.ok.injEq] at h
    subst h
    simp at hi
  | cons c cs ih =>
    unfold transcribe at h
    split at h
    · simp at h
    · rename_i j hj
      split at h
      · simp at h
      · rename_i js hjs
        simp only [Except.ok.injEq] at h
        subst h
        cases k with
        | zero => simp only [List.getElem?_cons_zero, Option.some.injEq] at hi; subst hi; exact ⟨c, by simp, hj⟩
        | succ k => simpa using ih hjs (by simpa using hi)

end Sys2Proof.Machine
end

