-- ==== Sys2Proof/Tests/Slice0.lean ====
section
/-! SUPPORT. Tests: the well-formedness checks on ill-formed terms, words of every family written out from the spec's
encodings, vectors of 95_test_vectors.md (under `TCFG`, R9), and a witness for the hypotheses of each statement. -/

namespace Sys2Proof.Tests

open Sys2Proof.Machine Sys2Proof.Safety

/-! ## Helpers -/

/-- `TCFG` with the assumptions about the display taken. -/
def cfgT : Config :=
  { launchConfig with displayInPhase := true, settleSufficient := true, strobeTimingMet := true }

/-- Another wiring: ten port bits, RS on bit 9, EN on bit 0, the data group from bit 3. -/
def cfgW : Config := { cfgT with portWidth := 10, rsBit := 9, enBit := 0, dataShift := 3 }

/-- The start state of 95_test_vectors.md §2 with `OUT` = `o`: ready, the six lines driven, the display in phase. -/
def st (o : PortWord) : State :=
  { State.powerUp cfgT [] o 0xF3 with
      ready := true
      trace := []
      display := { Display.powerUp with phase := .high, frameSeen := true } }

/-- The same before PORT_INIT. -/
def st0 (o d : PortWord) : State := State.powerUp cfgT [] o d

/-- After BOOT's PORT_INIT, before its first frame, with the BOOT list loaded. -/
def stBoot : State :=
  { State.powerUp cfgT (numbered 1 bootCommands) 0 0xF3 with ready := true, pc := 2 }

def traceOf : Host.Outcome State Fault Refusal → List Event
  | .next t => t.trace
  | _ => []

def nextOf : Host.Outcome State Fault Refusal → Option State
  | .next t => some t
  | _ => none

def outOf (r : Host.Outcome State Fault Refusal) : Option (PortWord × PortWord × Bool × Nat) :=
  (nextOf r).map (fun t => (t.out, t.dirOut, t.ready, t.pc))

def faultOf : Host.Outcome State Fault Refusal → Option Fault
  | .next t => t.fault
  | _ => none

def receivedOf (r : Host.Outcome State Fault Refusal) : List Received :=
  match nextOf r with
  | some t => t.display.received
  | none => []

def refusalOf : Host.Outcome State Fault Refusal → Option Refusal
  | .refused r => some r
  | _ => none

/-! ## Well-formedness: an ill-formed term for each check (30_encoding.md R52, 00_scope.md R7) -/

theorem test_illformed_nibble : (Command.nib 0x10).wellFormed = false := by decide
theorem test_illformed_byte : (Command.byte 0x100).wellFormed = false := by decide
theorem test_illformed_char : (Command.char 0x100).wellFormed = false := by decide
theorem test_illformed_line : (Command.instr (.setaddr 3 0)).wellFormed = false := by decide
theorem test_illformed_column : (Command.instr (.setaddr 1 64)).wellFormed = false := by decide
theorem test_illformed_code : (Command.instr (.rawByte 0x33)).wellFormed = false := by decide
theorem test_illformed_frame : (Command.frame 0x003).wellFormed = false := by decide
theorem test_illformed_wide_frame : (Command.frame 0x200).wellFormed = false := by decide

theorem test_tcfg_valid : configValid cfgT = true ∧ configValid cfgW = true := by decide
theorem test_invalid_data_group : configValid { cfgT with dataShift := 5 } = false := by decide
theorem test_invalid_rs : configValid { cfgT with rsBit := 8 } = false := by decide
theorem test_invalid_en : configValid { cfgT with enBit := 8 } = false := by decide
theorem test_invalid_same_bit : configValid { cfgT with rsBit := 1 } = false := by decide
theorem test_invalid_rs_in_data : configValid { cfgT with rsBit := 7 } = false := by decide
theorem test_invalid_en_in_data : configValid { cfgT with enBit := 4 } = false := by decide

/-! ## Decoding: words from 30_encoding.md R47–R49, R57; refused ones from R51, R52 and 95_test_vectors.md §2 -/

theorem test_word_clear : decodeTableWord 16 0b0_0000_0001 = some .clearDisplay := by decide
theorem test_word_home : decodeTableWord 16 0b0_0000_0010 = some .returnHome := by decide
theorem test_word_dispon : decodeTableWord 16 0b0_0000_1100 = some .displayOn := by decide
theorem test_word_fset : decodeTableWord 16 0b0_0010_1000 = some .functionSet := by decide
theorem test_word_setaddr : decodeTableWord 16 0b0_1110_0111 = some (.setAddress .line2 39#6) := by decide
theorem test_word_character : decodeTableWord 16 0b1_0101_0100 = some (.character 0x54#8) := by decide
theorem test_word_outside_set : decodeTableWord 16 0x040 = none := by decide
theorem test_word_too_wide : decodeTableWord 16 0x201 = none := by decide

/-- 95_test_vectors.md S9, V13–V21: the bytes of the operation table. -/
theorem test_enc_table :
    enc .clear = 0x01#8 ∧ enc .home = 0x02#8 ∧ enc .dispon = 0x0C#8 ∧ enc .fset = 0x28#8
      ∧ enc (.setaddr .line1 0#6) = 0x80#8 ∧ enc (.setaddr .line2 0#6) = 0xC0#8
      ∧ enc (.setaddr .line1 39#6) = 0xA7#8 ∧ enc (.setaddr .line2 63#6) = 0xFF#8 := by decide

/-- 95_test_vectors.md §2.2: the refusals at transcription. -/
theorem test_transcription_refusals :
    decode (.instr (.rawByte 0x33)) = .error .instrCode ∧ decode (.instr (.setaddr 1 64)) = .error .range
      ∧ decode (.char 0x100) = .error .range ∧ decode (.nib 0x10) = .error .range
      ∧ decode (.byte 0x100) = .error .range := by decide

/-- 30_encoding.md R55: lines of text, with a comment, an empty line, and each operand form. -/
theorem test_assemble_lines :
    assemble [['N', 'I', 'B', ' ', '0', 'x', 'A', ' ', ';', ' ', 'a'], [],
        ['B', 'Y', 'T', 'E', ' ', '4', '0'], ['P', 'I', 'N', 'I', 'T'],
        ['I', 'N', 'S', 'T', 'R', ' ', 'S', 'E', 'T', 'A', 'D', 'D', 'R', ' ', 'L', '2', ',', ' ', '6', '3'],
        ['I', 'N', 'S', 'T', 'R', ' ', 'F', 'S', 'E', 'T'], ['C', 'H', 'A', 'R', ' ', '0', 'x', '5', '4'],
        ['W', 'A', 'I', 'T', ' ', 'S', 'T', 'A', 'B', '_', 'P', 'R', 'E']]
      = some [⟨1, .nib 0xA⟩, ⟨3, .byte 40⟩, ⟨4, .pinit⟩, ⟨5, .instr (.setaddr 2 63)⟩, ⟨6, .instr .fset⟩,
          ⟨7, .char 0x54⟩, ⟨8, .wait .stabPre⟩] := by
  decide

theorem test_assemble_rejects : assemble [['F', 'O', 'O', ' ', '1']] = none := by decide

/-- 30_encoding.md R55: `line` is `L1` or `L2`; `L01` is not. -/
theorem test_assemble_rejects_L01 :
    lineWordOf ['L', '0', '1'] = none ∧ lineWordOf ['L', '0', '0', '2'] = none ∧ lineWordOf ['L', '1'] = some 1 := by
  decide

/-- 95_test_vectors.md P2: `LINE L1, "Tune 1"` is the address, six codes, and ten blanks. -/
theorem test_expand_tune1 :
    expand 0x20#8 (.line .line1 [0x54#8, 0x75#8, 0x6E#8, 0x65#8, 0x20#8, 0x31#8])
      = [.instr (.setaddr 1 0), .char 0x54, .char 0x75, .char 0x6E, .char 0x65, .char 0x20, .char 0x31]
        ++ List.replicate 10 (.char 0x20) := by decide

/-! ## Bus Transmitter vectors (95_test_vectors.md §2.1) -/

/-- V4: non-owned bits are kept through every write. -/
theorem test_nibble_V4 :
    traceOf (exec (.sendNibble 0x5#4) (st 0x0C)) = [.outW 0x0E, .outW 0x5E, .outW 0x5C, .outW 0x0C] := by decide

/-- V6: `UNINIT` at `pc` 0, no event, `pc` stays. -/
theorem test_nibble_V6 :
    faultOf (exec (.sendNibble 0x3#4) (st0 0 0)) = some (.uninit (.sendNibble 0x3#4) 0)
      ∧ traceOf (exec (.sendNibble 0x3#4) (st0 0 0)) = []
      ∧ outOf (exec (.sendNibble 0x3#4) (st0 0 0)) = some (0, 0, false, 0) := by decide

/-- V10: raw SEND_BYTE uses the current RS, high nibble first. -/
theorem test_byte_V10 :
    traceOf (exec (.sendByte 0xA5#8) (st 0x01))
      = [.outW 0x03, .outW 0xA3, .outW 0xA1, .outW 0x01, .outW 0x03, .outW 0x53, .outW 0x51, .outW 0x01] := by decide

/-- V10, latched column. -/
theorem test_byte_V10_latched :
    (nextOf (exec (.sendByte 0xA5#8) (st 0x01))).map (fun t => t.display.latches)
      = some [⟨true, 0xA#4⟩, ⟨true, 0x5#4⟩] := by decide

/-! ## Codec vectors (95_test_vectors.md §2.2) -/

/-- V23: RS falls before EN rises, and non-owned bits are kept. -/
theorem test_instruction_V23 :
    traceOf (exec (.sendInstruction .clear) (st 0x0D))
      = [.waitE .settle, .outW 0x0C, .outW 0x0E, .outW 0x0E, .outW 0x0C, .outW 0x0C, .outW 0x0E, .outW 0x1E,
         .outW 0x1C, .outW 0x0C] := by decide

/-- V21: the largest column, received as 0x0FF. -/
theorem test_instruction_V21 :
    receivedOf (exec (.sendInstruction (.setaddr .line2 63#6)) (st 0)) = [⟨0x0FF#9, true⟩] := by decide

/-- V25. -/
theorem test_character_V25 :
    traceOf (exec (.sendCharacter 0x54#8) (st 0))
      = [.waitE .settle, .outW 0x01, .outW 0x03, .outW 0x53, .outW 0x51, .outW 0x01, .outW 0x03, .outW 0x43,
         .outW 0x41, .outW 0x01] := by decide

/-- V27: the code of CLEAR, told apart by RS only. -/
theorem test_character_V27 : receivedOf (exec (.character 0x01#8) (st 0)) = [⟨0x101#9, true⟩] := by decide

theorem test_clear_V13 :
    receivedOf (exec .clearDisplay (st 0)) = [⟨0x001#9, true⟩]
      ∧ outOf (exec .clearDisplay (st 0x01)) = some (0, 0xF3, true, 1) := by decide

/-- V24: not even the wait is appended. -/
theorem test_clear_V24 : traceOf (exec .clearDisplay (st0 0 0)) = [] := by decide

theorem test_home_V14 :
    traceOf (exec .returnHome (st 0))
      = [.waitE .settle, .outW 0x00, .outW 0x02, .outW 0x02, .outW 0x00, .outW 0x00, .outW 0x02, .outW 0x22,
         .outW 0x20, .outW 0x00] := by decide

theorem test_dispon_V15 :
    traceOf (exec .displayOn (st 0))
      = [.waitE .settle, .outW 0x00, .outW 0x02, .outW 0x02, .outW 0x00, .outW 0x00, .outW 0x02, .outW 0xC2,
         .outW 0xC0, .outW 0x00] := by decide

/-- P1, third command: BOOT's first frame is received as 0x028. -/
theorem test_fset_boot : receivedOf (step stBoot) = [⟨0x028#9, true⟩] := by decide

theorem test_setaddr_V20 :
    traceOf (exec (.setAddress .line1 39#6) (st 0))
      = [.waitE .settle, .outW 0x00, .outW 0x02, .outW 0xA2, .outW 0xA0, .outW 0x00, .outW 0x02, .outW 0x72,
         .outW 0x70, .outW 0x00] := by decide

/-- The vectors "hold after the masks are moved": `CHAR 0x54` under another wiring, worked by hand. -/
theorem test_character_other_wiring :
    traceOf (exec (.sendCharacter 0x54#8) { st 0 with cfg := cfgW, dirOut := 0x279 })
      = [.waitE .settle, .outW 0x200, .outW 0x201, .outW 0x229, .outW 0x228, .outW 0x200, .outW 0x201, .outW 0x221,
         .outW 0x220, .outW 0x200] := by decide

/-- P6: an odd nibble pairs across the frame boundary: 0x040 is received and the nibble 0x1 is left. -/
theorem test_odd_nibble_P6 :
    (nextOf (exec .clearDisplay
        { st 0 with display := { (st 0).display with phase := .low ⟨false, 0x4#4⟩ true } })).map
      (fun t => (t.display.received, t.display.phase))
      = some ([⟨0x040#9, false⟩], .low ⟨false, 0x1#4⟩ true) := by decide

/-- R112: `BOOT; NIB 4; PINIT; INSTR CLEAR`, from the nibble on: PINIT restores no phase, and 0x040 is received. -/
theorem test_reinit_keeps_phase :
    let s := { st 0 with program := numbered 1 bootCommands
                         display := { (st 0).display with phase := .low ⟨false, 0x4#4⟩ true } }
    (nextOf (exec .portInit s)).map (fun t => t.display.phase) = some (.low ⟨false, 0x4#4⟩ true)
      ∧ ((nextOf (exec .portInit s)).bind (fun t => nextOf (exec (.sendInstruction .clear) t))).map
          (fun t => (t.display.received, t.display.phase))
        = some ([⟨0x040#9, false⟩], .low ⟨false, 0x1#4⟩ true) := by decide

/-! ## Port control vectors (95_test_vectors.md §2.3) -/

/-- V34. -/
theorem test_portinit_V34 :
    traceOf (exec .portInit (st0 0xFF 0x04)) = [.dirW 0xF7, .outW 0x0C]
      ∧ outOf (exec .portInit (st0 0xFF 0x04)) = some (0x0C, 0xF7, true, 1) := by decide

/-- V33. -/
theorem test_portinit_V33 :
    traceOf (exec .portInit { st0 0x0E 0 with cfg := { cfgT with portInitScope := .wholePort } })
      = [.dirW 0xFF, .outW 0x00] := by decide

/-- V36, V37. -/
theorem test_wait_V36 :
    traceOf (exec (.wait .stabPre) (st0 0 0)) = [.waitE .stabPre]
      ∧ outOf (exec (.wait .settle) (st0 0 0)) = some (0, 0, false, 1) := by decide

/-! ## Step -/

/-- P5: the second command, before PORT_INIT, raises `UNINIT` at `pc` 1. -/
theorem test_step_P5 :
    faultOf (step { State.powerUp cfgT (numbered 1 [.wait .stabPre, .nib 3, .pinit]) 0 0 with pc := 1 })
      = some (.uninit (.sendNibble 3#4) 1) := by decide

theorem test_step_refuses_bad_list :
    refusalOf (step (State.powerUp cfgT [⟨4, .pinit⟩, ⟨7, .nib 0x10⟩, ⟨8, .instr (.rawByte 0x33)⟩] 0 0))
      = some (.refuseRange 7) := by
  decide

theorem test_fetch_word_from_reset :
    faultOf (step (State.reset.withFetchWord 16 0x0C0)) = some (.uninit (.setAddress .line2 0#6) 0) := by decide

theorem test_reset_has_no_command : refusalOf (step State.reset) = some (.endOfRun 0) := by decide

/-! ## Witnesses: for each statement with hypotheses, a state and operands that meet them together -/

theorem witness_readyIdle : ReadyIdle (st 0x0D) ∧ ReadyIdle stBoot ∧ ReadyIdle (st 0) := by decide

theorem witness_readyIdle_other_wiring : ReadyIdle { st 0 with cfg := cfgW, dirOut := 0x279 } := by decide

/-- Also with every assumption about the display untaken, and with RS = 1 and the non-owned bits set. -/
theorem witness_readyIdle_no_assumption : ReadyIdle { st 0x0D with cfg := launchConfig } := by decide

theorem witness_StepRunsDecoded :
    stBoot.fault = none ∧ (∃ is, Launched stBoot is) ∧ stBoot.program[stBoot.pc]? = some ⟨3, .instr .fset⟩
      ∧ decode (.instr .fset) = .ok (.sendInstruction .fset) :=
  ⟨rfl, ⟨_, rfl, rfl⟩, rfl, rfl⟩

theorem witness_FetchWordRuns :
    State.reset.fault = none ∧ launchRefusal State.reset = none ∧ decodeTableWord 16 0x154 = some (.character 0x54#8) := by
  decide

theorem witness_LaunchRefused_config :
    (st 0).fault = none ∧ configValid { (st 0).cfg with rsBit := 1 } = false := by decide

theorem witness_LaunchRefused_callers :
    ({ st 0 with callers := 2 } : State).fault = none ∧ configValid (st 0).cfg = true ∧ 1 < 2 := by decide

theorem witness_TranscriptionRefusesFirstBad :
    (∀ g ∈ [SourceCommand.mk 1 .pinit], g.command.wellFormed = true) ∧ decode (.nib 0x10) = .error .range
      ∧ decode (.instr (.rawByte 0x33)) = .error .instrCode := by decide

theorem witness_RefusedTranscriptionHasNoStep :
    (State.powerUp cfgT [⟨9, .nib 0x10⟩] 0 0).fault = none
      ∧ launchRefusal (State.powerUp cfgT [⟨9, .nib 0x10⟩] 0 0) = none
      ∧ transcribe (State.powerUp cfgT [⟨9, .nib 0x10⟩] 0 0).program = .error (.refuseRange 9) :=
  ⟨rfl, rfl, rfl⟩

theorem witness_EndOfRunHasNoStep :
    (∃ is, Launched { stBoot with pc := 7 } is) ∧ EndsWell { stBoot with pc := 7 } :=
  ⟨⟨_, rfl, rfl⟩, by decide⟩

theorem witness_FaultedStateHasNoStep :
    ({ st 0 with fault := some (.uninit (.sendNibble 3#4) 1) } : State).fault
      = some (.uninit (.sendNibble 3#4) 1) := rfl

theorem witness_uninitialised :
    (st0 0x5E 0).fault = none ∧ (st0 0x5E 0).ready = false ∧ (Instr.character 0xFF#8).isTransfer = true := by decide

theorem witness_EveryCommandCompletesOrFaults :
    stBoot.fault = none ∧ (∃ is, Launched stBoot is) ∧ stBoot.pc < stBoot.program.length :=
  ⟨rfl, ⟨_, rfl, rfl⟩, by decide⟩

theorem witness_SentFramesDecode :
    frameOf (.sendCharacter 0xFF#8) = some 0x1FF#9 ∧ decodeFrame 0x0FF#9 = some (.setAddress .line2 63#6) := by decide

theorem witness_frame_clauses :
    (0x1FF#9 : Frame).getLsbD 8 = true ∧ (0x080#9 : Frame).getLsbD 8 = false ∧ (0x080#9 : Frame).getLsbD 7 = true := by
  decide

theorem witness_TranscriptionRefusals :
    0xF < 0x10 ∧ 0xFF < 0x100 ∧ (63 < 64 ∨ (1 ≠ 1 ∧ 1 ≠ 2)) ∧ (63 < 0 ∨ (0 ≠ 1 ∧ 0 ≠ 2)) ∧ (63 < 0 ∨ (3 ≠ 1 ∧ 3 ≠ 2)) := by
  decide

theorem witness_TranscriptionRefusals_code : ∀ a, (enc a).toNat ≠ 0x33 := by
  intro a
  have h : ∀ l, ∀ col : BitVec 6, (enc (.setaddr l col)).toNat ≠ 0x33 := by
    intro l; cases l <;> decide
  cases a with
  | setaddr l col => exact h l col
  | clear => decide
  | home => decide
  | dispon => decide
  | fset => decide

/-- The smallest number that is no byte (log entry 3). -/
theorem witness_TranscriptionRefusals_wide_code :
    (∀ a, (enc a).toNat ≠ 0x100) ∧ decode (.instr (.rawByte 0x100)) = .error .instrCode :=
  ⟨fun a => Nat.ne_of_lt (enc a).isLt, rfl⟩

theorem witness_LineExpansion :
    0 < 16 ∧ 0 < [0x58#8].length ∧ 15 < 16 ∧ [0x58#8].length ≤ 15 ∧ (3 ≠ 1 ∧ 3 ≠ 2) := by decide

theorem witness_PortInit : configValid (st0 0xFF 0x04).cfg = true ∧ (st0 0xFF 0x04).fault = none := by decide

theorem witness_PortInit_wholePort :
    configValid { cfgT with portInitScope := .wholePort } = true := by decide

theorem witness_WaitCommand : (st0 0 0).fault = none ∧ (st0 0 0).cfg.settleSufficient = true := by decide

theorem witness_RowsAreCodecOperations : (st 0).ready = true := rfl

theorem witness_ByteIsTwoNibbles :
    ∃ u t, exec (.sendNibble (hiNibble 0x28#8)) (st 0) = .next u ∧ exec (.sendNibble (loNibble 0x28#8)) u = .next t
      ∧ (st 0).ready = true :=
  ⟨_, _, rfl, rfl, rfl⟩

theorem witness_TransmitterFrame :
    ∃ t u, configValid (st 0x0D).cfg = true ∧ exec (.sendNibble 3#4) (st 0x0D) = .next t
      ∧ exec (.sendByte 3#8) (st 0x0D) = .next u :=
  ⟨_, _, by decide, rfl, rfl⟩

theorem witness_CodecFrame :
    ∃ t u, frameOf (.sendInstruction .home) = some 0x002#9 ∧ frameOf (.character 0#8) = some 0x100#9
      ∧ configValid (st 0x0D).cfg = true ∧ (st 0x0D).ready = true
      ∧ exec (.sendInstruction .home) (st 0x0D) = .next t ∧ exec (.character 0#8) (st 0x0D) = .next u :=
  ⟨_, _, by decide, by decide, by decide, rfl, rfl, rfl⟩

theorem witness_NonOwnedBitsKept :
    ∃ t, configValid (st0 0xFF 4).cfg = true ∧ (st0 0xFF 4).cfg.portInitScope = .lcdOnly
      ∧ exec .portInit (st0 0xFF 4) = .next t ∧ 3 < (st0 0xFF 4).cfg.portWidth
      ∧ ownedLine (st0 0xFF 4).cfg 3 = false :=
  ⟨_, by decide, rfl, rfl, by decide, by decide⟩

theorem witness_exec_next :
    ∃ t u v, exec .portInit (st0 0xFF 4) = .next t ∧ t.fault = none ∧ exec (.sendByte 3#8) (st 0) = .next u
      ∧ u.fault = none ∧ exec (.wait .settle) (st0 0 0) = .next v ∧ v.fault = none :=
  ⟨_, _, _, rfl, rfl, rfl, rfl, rfl, rfl⟩

theorem witness_NibbleCyclePinWords :
    ReadyIdle (st 0x0D) ∧ (st 0x0D).out.testBit (st 0x0D).cfg.rsBit = true
      ∧ ReadyIdle (st 0x0C) ∧ (st 0x0C).out.testBit (st 0x0C).cfg.rsBit = false := by decide

theorem witness_StepKeepsIdle : ∃ t, IdleInv stBoot ∧ step stBoot = .next t := ⟨_, by decide, rfl⟩

theorem traceInv_of_empty {s : State} (ht : s.trace = []) (hr : s.ready = false) : TraceInv s := by
  refine ⟨fun v h => ?_, fun v h => ?_, fun h => ?_⟩
  · simp [ht, lastOut] at h
  · simp [ht, lastDir] at h
  · simp [hr] at h

theorem witness_StepKeepsTrace :
    ∃ t, TraceInv (State.powerUp cfgT (numbered 1 bootCommands) 3 5)
      ∧ step (State.powerUp cfgT (numbered 1 bootCommands) 3 5) = .next t :=
  ⟨_, traceInv_of_empty rfl rfl, rfl⟩

theorem witness_StepKeepsFaultMark : ∃ t, FaultInv stBoot ∧ step stBoot = .next t :=
  ⟨_, ⟨by decide, fun _ _ h => nomatch h⟩, rfl⟩

theorem witness_SentFrameIsReceived :
    ReadyIdle (st 0) ∧ InPhase (st 0) ∧ (st 0).cfg.settleSufficient = true
      ∧ frameOf (.sendInstruction .clear) = some 0x001#9 :=
  ⟨by decide, .inl ⟨rfl, rfl⟩, rfl, by decide⟩

theorem witness_InPhase_after_boot : ReadyIdle stBoot ∧ InPhase stBoot ∧ stBoot.cfg.settleSufficient = true :=
  ⟨by decide, .inr ⟨rfl, by decide⟩, rfl⟩

theorem witness_OddNibblePairsAcrossFrames :
    let s := { st 0 with display := { (st 0).display with phase := .low ⟨false, 0x4#4⟩ true } }
    ReadyIdle s ∧ s.display.frameSeen = true ∧ frameOf .clearDisplay = some (mkFrame false 0x01#8) := by decide

theorem witness_LineAddressing :
    ReadyIdle (st 0) ∧ (st 0).display.line1Addressed = false
      ∧ ReadyIdle { st 0 with display := { (st 0).display with line1Addressed := true } }
      ∧ (st 0).display.frameSeen = true ∧ (st 0).display.phase = .high ∧ (st 0).cfg.settleSufficient = true := by decide

theorem witness_PortInitStrobe :
    configValid (st 0x02).cfg = true ∧ (st 0x02).fault = none ∧ (st 0x02).dirOut.testBit (st 0x02).cfg.enBit = true
      ∧ (st 0x02).out.testBit (st 0x02).cfg.enBit = true ∧ (st 0x02).out.testBit (st 0x02).cfg.rsBit = false
      ∧ (st 0x02).out.testBit ((st 0x02).cfg.dataShift + 3) = false
      ∧ (st 0x01).out.testBit (st 0x01).cfg.enBit = false := by decide

/-- The power-up form of R118: EN is 1 in the latch and no line is driven. -/
theorem witness_PortInitStrobe_powerUp :
    configValid (st0 0x0E 0).cfg = true ∧ (st0 0x0E 0).fault = none
      ∧ (st0 0x0E 0).dirOut.testBit (st0 0x0E 0).cfg.enBit = false
      ∧ (st0 0x0E 0).out.testBit (st0 0x0E 0).cfg.enBit = true := by decide

/-- With a half byte pending, and without. -/
theorem witness_ReinitKeepsPhase :
    ReadyIdle (st 0x01) ∧ ReadyIdle { st 0 with display := { (st 0).display with phase := .low ⟨false, 0x4#4⟩ true } } := by
  decide

theorem witness_NoCommandRestoresPhase :
    let s := { st 0 with display := { (st 0).display with phase := .low ⟨false, 0x4#4⟩ true } }
    ∃ t u, ReadyIdle s ∧ s.display.frameSeen = true ∧ s.display.phase ≠ .unknown ∧ exec .portInit s = .next t
      ∧ exec (.sendNibble 4#4) s = .next u ∧ (st 0).display.phase ≠ .unknown :=
  ⟨_, _, by decide, rfl, by decide, rfl, rfl, by decide⟩

end Sys2Proof.Tests
end

section
/-! The masks of a valid wiring (00_scope.md R7, R8), over the bit lemmas of Laws/Word. -/

namespace Sys2Proof.Masks

open Sys2Proof.Machine Sys2Proof.Safety

theorem ownedLine_iff (c : Config) (i : Nat) :
    ownedLine c i = true ↔ i = c.rsBit ∨ i = c.enBit ∨ (c.dataShift ≤ i ∧ i ≤ c.dataShift + 3) := by
  simp [ownedLine, or_assoc]

/-- R7: every owned line lies in the port. -/
theorem ownedLine_lt {c : Config} (hc : configValid c = true) {i : Nat} (hi : ownedLine c i = true) :
    i < c.portWidth := by
  obtain ⟨hd, hrs, hen, -⟩ := (configValid_iff c).mp hc
  rcases (ownedLine_iff c i).mp hi with rfl | rfl | ⟨-, hle⟩
  · exact hrs
  · exact hen
  · omega

theorem rsM_eq_two_pow {c : Config} (hrs : c.rsBit < c.portWidth) : rsM c = 2 ^ c.rsBit :=
  BitVec.toNat_twoPow_of_lt hrs

theorem enM_eq_two_pow {c : Config} (hen : c.enBit < c.portWidth) : enM c = 2 ^ c.enBit :=
  BitVec.toNat_twoPow_of_lt hen

theorem dataM_eq_shiftLeft {c : Config} (hd : c.dataShift + 3 < c.portWidth) : dataM c = 0xF <<< c.dataShift := by
  refine Nat.eq_of_testBit_eq fun i => ?_
  rw [testBit_dataM, Nat.testBit_shiftLeft, testBit_fifteen, Bool.eq_iff_iff]
  simp only [Bool.and_eq_true, decide_eq_true_eq]
  omega

theorem testBit_lcdM_eq_ownedLine {c : Config} (hc : configValid c = true) (i : Nat) :
    (lcdM c).testBit i = ownedLine c i := by
  have hbits : (lcdM c).testBit i = (decide (i < c.portWidth) && ownedLine c i) := testBit_lcdM c i
  rw [hbits]
  cases ho : ownedLine c i with
  | false => simp
  | true => simp [ownedLine_lt hc ho]

theorem testBit_otherM_eq_not_ownedLine (c : Config) (i : Nat) :
    (otherM c).testBit i = (decide (i < c.portWidth) && !ownedLine c i) :=
  testBit_otherM c i

/-- RS, EN and the four data lines, the lines `LCD_M` stands for. -/
def ownedLines (c : Config) : List Nat :=
  [c.rsBit, c.enBit, c.dataShift, c.dataShift + 1, c.dataShift + 2, c.dataShift + 3]

theorem mem_ownedLines_iff (c : Config) (i : Nat) : i ∈ ownedLines c ↔ ownedLine c i = true := by
  rw [ownedLine_iff]
  simp only [ownedLines, List.mem_cons, List.not_mem_nil, or_false]
  omega

/-- R7: RS, EN and the data lines are six different lines. -/
theorem nodup_ownedLines {c : Config} (hc : configValid c = true) : (ownedLines c).Nodup := by
  obtain ⟨-, -, -, hne, hrs, hen⟩ := (configValid_iff c).mp hc
  simp only [ownedLines, List.nodup_cons, List.mem_cons, List.not_mem_nil, List.nodup_nil, or_false,
    not_false_eq_true, and_true]
  omega

/-- The owned lines found by scanning the port are the six listed ones, in another order. -/
theorem filter_ownedLine_perm {c : Config} (hc : configValid c = true) :
    ((List.range c.portWidth).filter (ownedLine c)).Perm (ownedLines c) := by
  refine (List.perm_ext_iff_of_nodup (List.nodup_range.filter _) (nodup_ownedLines hc)).mpr fun i => ?_
  rw [List.mem_filter, List.mem_range, mem_ownedLines_iff]
  exact ⟨And.right, fun hi => ⟨ownedLine_lt hc hi, hi⟩⟩

/-- Settles O20: each mask from its bits, and the count from the list of the six owned lines. -/
theorem masksOfWiring : Obligations.MasksOfWiring := by
  intro c hc
  obtain ⟨hd, hrs, hen, -⟩ := (configValid_iff c).mp hc
  exact ⟨rsM_eq_two_pow hrs, enM_eq_two_pow hen, dataM_eq_shiftLeft hd, testBit_lcdM_eq_ownedLine hc,
    testBit_otherM_eq_not_ownedLine c, (filter_ownedLine_perm hc).length_eq⟩

end Sys2Proof.Masks
end

section
/-! One command and the state (10_state.md): how a predicate is carried through an instruction's operations to `exec`
and to `step`, and the bits of the registers after the operations that write them. -/

namespace Sys2Proof.StateRules

open Sys2Proof.Machine Sys2Proof.Safety

/-! ## A predicate that every operation keeps -/

/-- The operations that all instructions but PORT_INIT are made of, with the two ways of ending, keep `P`. -/
structure KeptByOps (P : State → Prop) : Prop where
  nibbleBody : ∀ v s, P s → P (nibbleBody v s)
  writeRs : ∀ rs s, P s → P (writeRs rs s)
  waitFor : ∀ k s, P s → P (waitFor k s)
  startFrame : ∀ s, P s → P (startFrame s)
  advance : ∀ s, P s → P (advance s)
  raiseUninit : ∀ i s, P s → P (raiseUninit i s)

variable {P : State → Prop} {s t : State} {i : Instr}

theorem KeptByOps.byteBody (h : KeptByOps P) (b : Byte) (hs : P s) : P (byteBody b s) :=
  h.nibbleBody _ _ (h.nibbleBody _ _ hs)

theorem KeptByOps.frameBody (h : KeptByOps P) (rs : Bool) (b : Byte) (hs : P s) : P (frameBody rs b s) :=
  h.byteBody b (h.startFrame _ (h.writeRs rs _ (h.waitFor .settle _ hs)))

theorem KeptByOps.bodyOf (h : KeptByOps P) (hp : i = .portInit → P (portInitBody s)) (hs : P s) :
    P (bodyOf i s) := by
  cases i with
  | portInit => exact hp rfl
  | wait k => exact h.waitFor k s hs
  | sendNibble v => exact h.nibbleBody v s hs
  | sendByte b => exact h.byteBody b hs
  | clearDisplay => exact h.frameBody _ _ hs
  | returnHome => exact h.frameBody _ _ hs
  | displayOn => exact h.frameBody _ _ hs
  | functionSet => exact h.frameBody _ _ hs
  | setAddress l col => exact h.frameBody _ _ hs
  | character c => exact h.frameBody _ _ hs
  | sendInstruction code => exact h.frameBody _ _ hs
  | sendCharacter c => exact h.frameBody _ _ hs

theorem KeptByOps.exec (h : KeptByOps P) (hp : i = .portInit → P (portInitBody s)) (hs : P s)
    (he : exec i s = .next t) : P t := by
  obtain ⟨-, ⟨-, rfl⟩ | ⟨-, -, rfl⟩⟩ := exec_next he
  · exact h.advance _ (h.bodyOf hp hs)
  · exact h.raiseUninit i s hs

theorem KeptByOps.step (h : KeptByOps P) (hp : P s → P (portInitBody s)) (hs : P s)
    (ht : step s = .next t) : P t := by
  obtain ⟨-, i, -, he⟩ := step_next ht
  exact h.exec (fun _ => hp hs) hs he

/-! ## The registers after a frame's operations and after PORT_INIT -/

/-- The lines the idle invariant wants at 0 (R28): EN and the data group. -/
def StrobeOrData (c : Config) (k : Nat) : Prop := k = c.enBit ∨ (c.dataShift ≤ k ∧ k ≤ c.dataShift + 3)

theorem StrobeOrData.owned {c : Config} {k : Nat} (h : StrobeOrData c k) : ownedLine c k = true :=
  (Masks.ownedLine_iff c k).mpr (.inr h)

theorem StrobeOrData.ne_rsBit {c : Config} {k : Nat} (hc : configValid c = true) (h : StrobeOrData c k) :
    k ≠ c.rsBit := by
  obtain ⟨-, -, -, hne, hrs, -⟩ := (configValid_iff c).mp hc
  rintro rfl
  exact h.elim hne hrs

theorem not_strobeOrData {c : Config} {k : Nat} (h : ownedLine c k = false) : ¬ StrobeOrData c k :=
  fun hk => by simp [hk.owned] at h

theorem ne_rsBit_of_not_owned {c : Config} {k : Nat} (h : ownedLine c k = false) : k ≠ c.rsBit := by
  rintro rfl
  simp [ownedLine] at h

/-- A nibble cycle leaves EN and the data lines at 0, whatever they were. -/
theorem nibbleBody_out_strobeOrData (v : Nibble) (s : State) {k : Nat} (hk : StrobeOrData s.cfg k) :
    (nibbleBody v s).out.testBit k = false := by
  simp only [nibbleBody, pinClr_out, pinClr_cfg, pinSet_cfg, testBit_wordAndNot, testBit_enM, testBit_dataM]
  obtain rfl | ⟨hlo, hhi⟩ := hk
  · cases decide (s.cfg.enBit < s.cfg.portWidth) <;> simp
  · cases decide (k < s.cfg.portWidth) <;> simp [hlo, hhi]

theorem nibbleBody_out_lt (v : Nibble) (s : State) : (nibbleBody v s).out < 2 ^ s.cfg.portWidth :=
  wordAndNot_lt _ _ _

theorem writeRs_out_testBit (rs : Bool) (s : State) {k : Nat} (hk : k < s.cfg.portWidth) (hne : k ≠ s.cfg.rsBit) :
    (writeRs rs s).out.testBit k = s.out.testBit k := by
  cases rs with
  | false => simp [writeRs, testBit_wordAndNot, testBit_rsM, hk, hne]
  | true => simp [writeRs, testBit_wordOr, testBit_rsM, hk, hne]

theorem writeRs_out_lt (rs : Bool) (s : State) : (writeRs rs s).out < 2 ^ s.cfg.portWidth := by
  cases rs with
  | false => exact wordAndNot_lt _ _ _
  | true => exact wordOr_lt _ _ _

theorem portInitBody_lcdOnly (hs : s.cfg.portInitScope = .lcdOnly) :
    (portInitBody s).out = wordAndNot s.cfg.portWidth s.out (lcdM s.cfg)
      ∧ (portInitBody s).dirOut = wordOr s.cfg.portWidth s.dirOut (lcdM s.cfg) := by
  simp [portInitBody, portInitWrites, hs, dirOutput]

theorem portInitBody_wholePort (hs : s.cfg.portInitScope = .wholePort) :
    (portInitBody s).out = 0
      ∧ (portInitBody s).dirOut = wordOr s.cfg.portWidth s.dirOut (allOnes s.cfg.portWidth) := by
  simp [portInitBody, portInitWrites, hs, dirOutput]

/-- R80: under either scope PORT_INIT clears every owned line and makes it an output. -/
theorem portInitBody_owned (hc : configValid s.cfg = true) {k : Nat} (hk : ownedLine s.cfg k = true) :
    (portInitBody s).out.testBit k = false ∧ (portInitBody s).dirOut.testBit k = true := by
  have hlt := Masks.ownedLine_lt hc hk
  cases hs : s.cfg.portInitScope with
  | lcdOnly =>
    obtain ⟨ho, hd⟩ := portInitBody_lcdOnly hs
    simp [ho, hd, testBit_wordAndNot, testBit_wordOr, Masks.testBit_lcdM_eq_ownedLine hc, hk, hlt]
  | wholePort =>
    obtain ⟨ho, hd⟩ := portInitBody_wholePort hs
    simp [ho, hd, testBit_wordOr, testBit_allOnes, hlt]

theorem portInitBody_inRange (s : State) : InRange (portInitBody s) := by
  obtain ⟨-, -, -, hcfg, -⟩ := portInitBody_keeps s
  rw [InRange, hcfg]
  cases hs : s.cfg.portInitScope with
  | lcdOnly =>
    obtain ⟨ho, hd⟩ := portInitBody_lcdOnly hs
    exact ⟨ho ▸ wordAndNot_lt _ _ _, hd ▸ wordOr_lt _ _ _⟩
  | wholePort =>
    obtain ⟨ho, hd⟩ := portInitBody_wholePort hs
    exact ⟨ho ▸ Nat.two_pow_pos _, hd ▸ wordOr_lt _ _ _⟩

/-- R80: the direction write comes first, and the two writes are PORT_INIT's only events. -/
theorem portInitBody_trace (s : State) :
    (portInitBody s).trace = s.trace ++ [.dirW (portInitBody s).dirOut, .outW (portInitBody s).out] := by
  cases hs : s.cfg.portInitScope <;> simp [portInitBody, portInitWrites, hs, dirOutput]

/-! ## What every body keeps -/

/-- A fault is entered by `raiseUninit` and `pc` moved by `advance`, never by a body. -/
theorem bodyOf_fault_pc_program (i : Instr) (s : State) :
    (bodyOf i s).fault = s.fault ∧ (bodyOf i s).pc = s.pc ∧ (bodyOf i s).program = s.program := by
  by_cases hi : i = .portInit
  · subst hi
    obtain ⟨-, hfault, hpc, -, hprog, -⟩ := portInitBody_keeps s
    exact ⟨hfault, hpc, hprog⟩
  · obtain ⟨-, -, hfault, hpc, -, hprog, -⟩ := bodyOf_keeps hi s
    exact ⟨hfault, hpc, hprog⟩

end Sys2Proof.StateRules
end

section
/-! The idle invariant (10_state.md R28) is kept by every step. -/

namespace Sys2Proof.IdleInvariant

open Sys2Proof.Machine Sys2Proof.Safety Sys2Proof.StateRules

theorem out_and_dataM_eq_zero_iff {c : Config} (hc : configValid c = true) (o : PortWord) :
    o &&& dataM c = 0 ↔ ∀ k, c.dataShift ≤ k → k ≤ c.dataShift + 3 → o.testBit k = false := by
  obtain ⟨hd, -⟩ := (configValid_iff c).mp hc
  constructor
  · intro h k hlo hhi
    have hbit : (o &&& dataM c).testBit k = false := by rw [h]; exact Nat.zero_testBit k
    have hk : k < c.portWidth := by omega
    simpa [Nat.testBit_and, testBit_dataM, hlo, hhi, hk] using hbit
  · intro h
    refine Nat.eq_of_testBit_eq fun k => ?_
    rw [Nat.testBit_and, testBit_dataM, Nat.zero_testBit]
    by_cases hk : c.dataShift ≤ k ∧ k ≤ c.dataShift + 3
    · simp [h k hk.1 hk.2]
    · have : (decide (c.dataShift ≤ k) && decide (k ≤ c.dataShift + 3)) = false := by simpa using hk
      simp [this]

theorem and_lcdM_eq_lcdM_iff {c : Config} (hc : configValid c = true) (d : PortWord) :
    d &&& lcdM c = lcdM c ↔ ∀ k, ownedLine c k = true → d.testBit k = true := by
  constructor
  · intro h k hk
    have hbit : (d &&& lcdM c).testBit k = (lcdM c).testBit k := by rw [h]
    simpa [Nat.testBit_and, Masks.testBit_lcdM_eq_ownedLine hc, hk] using hbit
  · intro h
    refine Nat.eq_of_testBit_eq fun k => ?_
    rw [Nat.testBit_and, Masks.testBit_lcdM_eq_ownedLine hc]
    cases hk : ownedLine c k with
    | false => simp
    | true => simp [h k hk]

/-- The idle invariant line by line. -/
theorem idle_iff {s : State} (hc : configValid s.cfg = true) :
    Idle s ↔ (∀ k, StrobeOrData s.cfg k → s.out.testBit k = false)
      ∧ ∀ k, ownedLine s.cfg k = true → s.dirOut.testBit k = true := by
  rw [Idle, out_and_dataM_eq_zero_iff hc, and_lcdM_eq_lcdM_iff hc]
  constructor
  · rintro ⟨hen, hdata, hdir⟩
    refine ⟨?_, hdir⟩
    rintro k (rfl | ⟨hlo, hhi⟩)
    · exact hen
    · exact hdata k hlo hhi
  · rintro ⟨hout, hdir⟩
    exact ⟨hout _ (.inl rfl), fun k hlo hhi => hout k (.inr ⟨hlo, hhi⟩), hdir⟩

/-- An operation that keeps `dir_out` and `ready` keeps the invariant when its `OUT` is in range and, from an idle
state, has EN and the data lines at 0. -/
theorem idleInv_of_keeps {s t : State} (hk : Keeps s t) (hlt : t.out < 2 ^ s.cfg.portWidth)
    (hout : configValid s.cfg = true → (∀ k, StrobeOrData s.cfg k → s.out.testBit k = false) →
      ∀ k, StrobeOrData s.cfg k → t.out.testBit k = false)
    (hs : IdleInv s) : IdleInv t := by
  obtain ⟨hdir, hready, -, -, hcfg, -⟩ := hk
  obtain ⟨hc, ⟨-, hdlt⟩, hidle⟩ := hs
  have hct : configValid t.cfg = true := hcfg ▸ hc
  refine ⟨hct, ⟨hcfg ▸ hlt, hcfg ▸ hdir ▸ hdlt⟩, fun hr => (idle_iff hct).mpr ?_⟩
  obtain ⟨hlow, hdrv⟩ := (idle_iff hc).mp (hidle (hready ▸ hr))
  rw [hcfg, hdir]
  exact ⟨hout hc hlow, hdrv⟩

theorem nibbleBody_idleInv (v : Nibble) (s : State) (hs : IdleInv s) : IdleInv (nibbleBody v s) :=
  idleInv_of_keeps (nibbleBody_keeps v s) (nibbleBody_out_lt v s)
    (fun _ _ _ hk => nibbleBody_out_strobeOrData v s hk) hs

theorem writeRs_idleInv (rs : Bool) (s : State) (hs : IdleInv s) : IdleInv (writeRs rs s) :=
  idleInv_of_keeps (writeRs_keeps rs s) (writeRs_out_lt rs s)
    (fun hc hlow k hk =>
      (writeRs_out_testBit rs s (Masks.ownedLine_lt hc hk.owned) (hk.ne_rsBit hc)).trans (hlow k hk)) hs

/-- PORT_INIT establishes it. -/
theorem portInitBody_idleInv (s : State) (hc : configValid s.cfg = true) : IdleInv (portInitBody s) := by
  obtain ⟨-, -, -, hcfg, -⟩ := portInitBody_keeps s
  have hct : configValid (portInitBody s).cfg = true := hcfg ▸ hc
  refine ⟨hct, portInitBody_inRange s, fun _ => (idle_iff hct).mpr ?_⟩
  rw [hcfg]
  exact ⟨fun k hk => (portInitBody_owned hc hk.owned).1, fun k hk => (portInitBody_owned hc hk).2⟩

theorem idleInv_keptByOps : KeptByOps IdleInv where
  nibbleBody := nibbleBody_idleInv
  writeRs := writeRs_idleInv
  waitFor _ _ hs := hs
  startFrame _ hs := hs
  advance _ hs := hs
  raiseUninit _ _ hs := hs

/-- Settles O39: PORT_INIT establishes the idle invariant, and every other operation keeps it. -/
theorem stepKeepsIdle : Obligations.StepKeepsIdle :=
  fun s _ hs ht => idleInv_keptByOps.step (fun ⟨hc, _⟩ => portInitBody_idleInv s hc) hs ht

end Sys2Proof.IdleInvariant
end

section
/-! The agreement of the registers with the trace (10_state.md R24, 20_memory.md R31) is kept by every step. -/

namespace Sys2Proof.TraceInvariant

open Sys2Proof.Machine Sys2Proof.Safety Sys2Proof.StateRules

@[simp] theorem lastOut_append_outW (es : List Event) (v : PortWord) : lastOut (es ++ [.outW v]) = some v := by
  simp [lastOut]

@[simp] theorem lastOut_append_waitE (es : List Event) (k : WaitKind) :
    lastOut (es ++ [.waitE k]) = lastOut es := by
  simp [lastOut]

@[simp] theorem lastDir_append_outW (es : List Event) (v : PortWord) : lastDir (es ++ [.outW v]) = lastDir es := by
  simp [lastDir]

@[simp] theorem lastDir_append_waitE (es : List Event) (k : WaitKind) :
    lastDir (es ++ [.waitE k]) = lastDir es := by
  simp [lastDir]

@[simp] theorem lastOut_append_dirW_outW (es : List Event) (d o : PortWord) :
    lastOut (es ++ [.dirW d, .outW o]) = some o := by
  simp [lastOut]

@[simp] theorem lastDir_append_dirW_outW (es : List Event) (d o : PortWord) :
    lastDir (es ++ [.dirW d, .outW o]) = some d := by
  simp [lastDir]

theorem writeOut_traceInv (v : PortWord) {s : State} (hs : TraceInv s) : TraceInv (writeOut v s) := by
  obtain ⟨-, hdir, hready⟩ := hs
  refine ⟨by simp, by simpa using hdir, fun hr => ?_⟩
  simpa using (hready hr).2

theorem waitFor_traceInv (k : WaitKind) {s : State} (hs : TraceInv s) : TraceInv (waitFor k s) := by
  simpa [TraceInv] using hs

theorem nibbleBody_traceInv (v : Nibble) {s : State} (hs : TraceInv s) : TraceInv (nibbleBody v s) :=
  writeOut_traceInv _ (writeOut_traceInv _ (writeOut_traceInv _ (writeOut_traceInv _ hs)))

theorem writeRs_traceInv (rs : Bool) {s : State} (hs : TraceInv s) : TraceInv (writeRs rs s) := by
  cases rs with
  | false => exact writeOut_traceInv _ hs
  | true => exact writeOut_traceInv _ hs

/-- PORT_INIT writes both registers, so it establishes the agreement. -/
theorem portInitBody_traceInv (s : State) : TraceInv (portInitBody s) := by
  simp [TraceInv, portInitBody_trace]

theorem traceInv_keptByOps : KeptByOps TraceInv where
  nibbleBody v _ := nibbleBody_traceInv v
  writeRs rs _ := writeRs_traceInv rs
  waitFor k _ := waitFor_traceInv k
  startFrame _ hs := hs
  advance _ hs := hs
  raiseUninit _ _ hs := hs

/-- Settles O40: each register write records the value it leaves, and PORT_INIT writes both registers. -/
theorem stepKeepsTrace : Obligations.StepKeepsTrace :=
  fun s _ hs ht => traceInv_keptByOps.step (fun _ => portInitBody_traceInv s) hs ht

end Sys2Proof.TraceInvariant
end

section
/-! Fetching at `pc`, the fault mark, and what instructions leave unchanged (10_state.md R14, R20–R25). -/

namespace Sys2Proof.StateFrame

open Sys2Proof.Machine Sys2Proof.Safety Sys2Proof.StateRules

/-- A step fetches a command of the list, so `pc` is short of the list's end. -/
theorem fetch_ok_command {s : State} {i : Instr} (h : fetch s = .ok i) :
    ∃ c, s.program[s.pc]? = some c ∧ decode c.command = .ok i := by
  obtain ⟨-, is, ht, hi⟩ := fetch_ok h
  exact transcribe_getElem ht hi

/-- Settles O41, from the step alone: a step starts without a fault mark and fetches a command of the list, so an
instruction that runs leaves `pc` in the list and no mark, and one that raises `UNINIT` marks the command it fetched. -/
theorem stepKeepsFaultMark : Obligations.StepKeepsFaultMark := by
  intro s t _ ht
  obtain ⟨hnone, i, hi, he⟩ := step_next ht
  obtain ⟨c, hc, hdec⟩ := fetch_ok_command hi
  obtain ⟨hlt, -⟩ := List.getElem?_eq_some_iff.mp hc
  obtain ⟨-, ⟨-, rfl⟩ | ⟨htr, hr, rfl⟩⟩ := exec_next he
  · obtain ⟨hfault, hpc, hprog⟩ := bodyOf_fault_pc_program i s
    refine ⟨?_, fun j p hj => ?_⟩
    · rw [advance_pc, advance_program, hpc, hprog]
      exact hlt
    · rw [advance_fault, hfault, hnone] at hj
      cases hj
  · refine ⟨hlt.le, fun j p hj => ?_⟩
    cases hj
    exact ⟨hr, rfl, htr, c, hc, hdec⟩

/-- The transcribed instruction at a place is the decoded command there. -/
theorem transcribe_getElem_of_decode {cs : List SourceCommand} {is : List Instr} (h : transcribe cs = .ok is)
    {k : Nat} {c : SourceCommand} {i : Instr} (hc : cs[k]? = some c) (hd : decode c.command = .ok i) :
    is[k]? = some i := by
  obtain ⟨hlt, -⟩ := List.getElem?_eq_some_iff.mp hc
  have hk : is[k]? = some (is[k]'(transcribe_length h ▸ hlt)) := List.getElem?_eq_getElem _
  obtain ⟨c', hc', hd'⟩ := transcribe_getElem h hk
  cases hc.symm.trans hc'
  cases hd.symm.trans hd'
  exact hk

/-- Settles O3: the fetched instruction is the decoded command at `pc`. -/
theorem stepRunsDecoded : Obligations.StepRunsDecoded := by
  rintro s is c i hnone ⟨hl, ht⟩ hc hd
  exact step_of_fetch hnone (fetch_of hl ht (transcribe_getElem_of_decode ht hc hd))

/-- R20: `t` is wired as `s` is and has its non-owned bits. -/
def SameNonOwned (s t : State) : Prop :=
  t.cfg = s.cfg ∧ ∀ k, k < s.cfg.portWidth → ownedLine s.cfg k = false →
    t.out.testBit k = s.out.testBit k ∧ t.dirOut.testBit k = s.dirOut.testBit k

theorem SameNonOwned.trans {s t u : State} (h : SameNonOwned s t) (h' : SameNonOwned t u) : SameNonOwned s u := by
  obtain ⟨hcfg, hbits⟩ := h
  obtain ⟨hcfg', hbits'⟩ := h'
  rw [hcfg] at hcfg' hbits'
  refine ⟨hcfg', fun k hk ho => ?_⟩
  obtain ⟨hout, hdir⟩ := hbits k hk ho
  obtain ⟨hout', hdir'⟩ := hbits' k hk ho
  exact ⟨hout'.trans hout, hdir'.trans hdir⟩

theorem nibbleBody_sameNonOwned (v : Nibble) (s : State) : SameNonOwned s (nibbleBody v s) := by
  refine ⟨rfl, fun k hk ho => ⟨?_, rfl⟩⟩
  have hn := not_strobeOrData ho
  exact nibbleBody_out_testBit v s k hk (fun he => hn (.inl he)) (fun hd => hn (.inr hd))

theorem writeRs_sameNonOwned (rs : Bool) (s : State) : SameNonOwned s (writeRs rs s) := by
  obtain ⟨hdir, -, -, -, hcfg, -⟩ := writeRs_keeps rs s
  exact ⟨hcfg, fun k hk ho => ⟨writeRs_out_testBit rs s hk (ne_rsBit_of_not_owned ho), by rw [hdir]⟩⟩

theorem portInitBody_sameNonOwned {s : State} (hc : configValid s.cfg = true)
    (hs : s.cfg.portInitScope = .lcdOnly) : SameNonOwned s (portInitBody s) := by
  obtain ⟨-, -, -, hcfg, -⟩ := portInitBody_keeps s
  obtain ⟨hout, hdir⟩ := portInitBody_lcdOnly hs
  refine ⟨hcfg, fun k hk ho => ?_⟩
  simp [hout, hdir, testBit_wordAndNot, testBit_wordOr, Masks.testBit_lcdM_eq_ownedLine hc, hk, ho]

theorem sameNonOwned_keptByOps (s : State) : KeptByOps (SameNonOwned s) where
  nibbleBody v t ht := ht.trans (nibbleBody_sameNonOwned v t)
  writeRs rs t ht := ht.trans (writeRs_sameNonOwned rs t)
  waitFor _ _ ht := ht
  startFrame _ ht := ht
  advance _ ht := ht
  raiseUninit _ _ ht := ht

/-- Settles O33: every operation but PORT_INIT under `WHOLE_PORT` keeps the non-owned bits. -/
theorem nonOwnedBitsKept : Obligations.NonOwnedBitsKept := by
  intro s t i hc hscope he
  have hrefl : SameNonOwned s s := ⟨rfl, fun _ _ _ => ⟨rfl, rfl⟩⟩
  exact ((sameNonOwned_keptByOps s).exec (fun hp => portInitBody_sameNonOwned hc (hscope hp)) hrefl he).2

/-- Settles O34: what an instruction keeps, for PORT_INIT, for the others, and for a fault entry. -/
theorem onlyPortInitSetsDirection : Obligations.OnlyPortInitSetsDirection := by
  intro s t i he
  obtain ⟨-, ⟨-, rfl⟩ | ⟨htr, -, rfl⟩⟩ := exec_next he
  · by_cases hi : i = .portInit
    · subst hi
      obtain ⟨hready, -, -, hcfg, hprog, hcallers⟩ := portInitBody_keeps s
      exact ⟨fun hne => absurd rfl hne, fun _ => hready, fun _ => hready, hcfg, hprog, hcallers⟩
    · obtain ⟨hdir, hready, -, -, hcfg, hprog, hcallers⟩ := bodyOf_keeps hi s
      exact ⟨fun _ => ⟨hdir, hready⟩, hready.trans, fun hp => absurd hp hi, hcfg, hprog, hcallers⟩
  · have hi : i ≠ .portInit := by rintro rfl; cases htr
    exact ⟨fun _ => ⟨rfl, rfl⟩, id, fun hp => absurd hp hi, rfl, rfl, rfl⟩

end Sys2Proof.StateFrame
end

section
/-! Two runs of one command from related states (20_memory.md R33, 60_exceptions.md R94): a relation that every operation
respects is respected by `exec`; with the display and the draw count replaced, the transmitter runs as before. -/

namespace Sys2Proof.TwoRuns

open Sys2Proof.Machine

/-- Related states agree on what `exec` branches on, and every operation takes related states to related states. -/
structure RespectedByOps (R : State → State → Prop) : Prop where
  fault : ∀ {s u}, R s u → u.fault = s.fault
  ready : ∀ {s u}, R s u → u.ready = s.ready
  nibbleBody : ∀ v {s u}, R s u → R (nibbleBody v s) (nibbleBody v u)
  writeRs : ∀ rs {s u}, R s u → R (writeRs rs s) (writeRs rs u)
  waitFor : ∀ k {s u}, R s u → R (waitFor k s) (waitFor k u)
  startFrame : ∀ {s u}, R s u → R (startFrame s) (startFrame u)
  portInitBody : ∀ {s u}, R s u → R (portInitBody s) (portInitBody u)
  advance : ∀ {s u}, R s u → R (advance s) (advance u)
  raiseUninit : ∀ i {s u}, R s u → R (raiseUninit i s) (raiseUninit i u)

section

variable {R : State → State → Prop} {s t u : State} {i : Instr}

theorem RespectedByOps.byteBody (h : RespectedByOps R) (b : Byte) (hr : R s u) : R (byteBody b s) (byteBody b u) :=
  h.nibbleBody _ (h.nibbleBody _ hr)

theorem RespectedByOps.frameBody (h : RespectedByOps R) (rs : Bool) (b : Byte) (hr : R s u) :
    R (frameBody rs b s) (frameBody rs b u) :=
  h.byteBody b (h.startFrame (h.writeRs rs (h.waitFor .settle hr)))

theorem RespectedByOps.bodyOf (h : RespectedByOps R) (i : Instr) (hr : R s u) : R (bodyOf i s) (bodyOf i u) := by
  cases i with
  | portInit => exact h.portInitBody hr
  | wait k => exact h.waitFor k hr
  | sendNibble v => exact h.nibbleBody v hr
  | sendByte b => exact h.byteBody b hr
  | clearDisplay | returnHome | displayOn | functionSet | setAddress _ _ | sendInstruction _ | character _
  | sendCharacter _ => exact h.frameBody _ _ hr

theorem exec_completes (hf : s.fault = none) (hr : i.isTransfer = false ∨ s.ready = true) :
    exec i s = .next (advance (bodyOf i s)) := by
  cases hi : i.isTransfer with
  | false => rw [exec_always i hi, always_none hf]
  | true => rw [exec_transfer i hi, transfer_ready hf (hr.resolve_left (by simp [hi]))]

/-- `exec` branches on the fault mark and `ready` alone, so related states take the same branch. -/
theorem RespectedByOps.exec (h : RespectedByOps R) (hr : R s u) (he : exec i s = .next t) :
    ∃ t', exec i u = .next t' ∧ R t t' := by
  obtain ⟨hfault, ⟨hruns, rfl⟩ | ⟨htr, hready, rfl⟩⟩ := exec_next he
  · rw [← h.fault hr] at hfault
    rw [← h.ready hr] at hruns
    exact ⟨_, exec_completes hfault hruns, h.advance (h.bodyOf i hr)⟩
  · rw [← h.fault hr] at hfault
    rw [← h.ready hr] at hready
    exact ⟨_, (exec_transfer i htr u).trans (transfer_uninit hfault hready), h.raiseUninit i hr⟩

/-- `u` is `s` with any other display and draw count. -/
def DiffersInDisplay (s u : State) : Prop := ∃ d n, u = { s with display := d, draws := n }

theorem portInitBody_differsInDisplay (h : DiffersInDisplay s u) :
    DiffersInDisplay (portInitBody s) (portInitBody u) := by
  obtain ⟨d, n, rfl⟩ := h
  unfold portInitBody portInitWrites
  cases s.cfg.portInitScope with
  | lcdOnly => exact ⟨_, _, rfl⟩
  | wholePort => exact ⟨_, _, rfl⟩

theorem writeRs_differsInDisplay (rs : Bool) (h : DiffersInDisplay s u) :
    DiffersInDisplay (writeRs rs s) (writeRs rs u) := by
  obtain ⟨d, n, rfl⟩ := h
  cases rs with
  | false => exact ⟨_, _, rfl⟩
  | true => exact ⟨_, _, rfl⟩

end

/-- R94: the operations compute the registers and the trace from the transmitter's fields alone. -/
theorem differsInDisplay_respectedByOps : RespectedByOps DiffersInDisplay where
  fault := fun ⟨_, _, hu⟩ => hu ▸ rfl
  ready := fun ⟨_, _, hu⟩ => hu ▸ rfl
  nibbleBody := fun _ _ _ ⟨_, _, hu⟩ => hu ▸ ⟨_, _, rfl⟩
  writeRs := fun rs _ _ => writeRs_differsInDisplay rs
  waitFor := fun _ _ _ ⟨_, _, hu⟩ => hu ▸ ⟨_, _, rfl⟩
  startFrame := fun ⟨_, _, hu⟩ => hu ▸ ⟨_, _, rfl⟩
  portInitBody := portInitBody_differsInDisplay
  advance := fun ⟨_, _, hu⟩ => hu ▸ ⟨_, _, rfl⟩
  raiseUninit := fun _ _ _ ⟨_, _, hu⟩ => hu ▸ ⟨_, _, rfl⟩

/-- Settles O42: every operation respects a difference in the display and the draw count, so `exec` does. -/
theorem displayIsNeverRead : Obligations.DisplayIsNeverRead := by
  intro s i d n t he
  obtain ⟨_, hexec, d', n', rfl⟩ := differsInDisplay_respectedByOps.exec ⟨d, n, rfl⟩ he
  exact ⟨d', n', hexec⟩

end Sys2Proof.TwoRuns
end

section
/-! The decoder of frames (30_encoding.md R51) against the frames that instructions send (R46) and the rows of the table
(R57). -/

namespace Sys2Proof.Encoding

/-! ## The numbers of frames -/

theorem toNat_mkFrame (rs : Bool) (b : Byte) : (mkFrame rs b).toNat = rs.toNat * 256 + b.toNat := by
  calc (mkFrame rs b).toNat = (BitVec.ofBool rs).toNat <<< 8 ||| b.toNat := BitVec.toNat_append _ _
    _ = rs.toNat <<< 8 + b.toNat := by
      rw [← Nat.shiftLeft_add_eq_or_of_lt b.isLt, BitVec.toNat_ofBool]
    _ = rs.toNat * 256 + b.toNat := by rw [Nat.shiftLeft_eq]

/-- R48: the byte of `SETADDR` is a leading 1, the line bit and the column. -/
theorem toNat_enc_setaddr (l : Line) (col : BitVec 6) :
    (enc (.setaddr l col)).toNat = 128 + (lineBit l).toNat * 64 + col.toNat := by
  have hor (a : Nat) := (Nat.shiftLeft_add_eq_or_of_lt col.isLt a).symm
  have hcol : col.toNat % 256 = col.toNat := Nat.mod_eq_of_lt (by omega)
  cases l with
  | line1 => simpa [enc, lineBit, hcol] using hor 2
  | line2 => simpa [enc, lineBit, hcol] using hor 3

theorem bit8_iff (f : Frame) : f.getLsbD 8 = true ↔ 256 ≤ f.toNat := by
  have := f.isLt
  rw [BitVec.getLsbD, Nat.testBit_eq_decide_div_mod_eq, decide_eq_true_eq]
  omega

theorem bit7_iff (f : Frame) : f.getLsbD 7 = true ↔ 128 ≤ f.toNat % 256 := by
  rw [BitVec.getLsbD, Nat.testBit_eq_decide_div_mod_eq, decide_eq_true_eq]
  omega

theorem toNat_lineBit_lineOfBit (f : Frame) : (lineBit (lineOfBit (f.getLsbD 6))).toNat = f.toNat / 64 % 2 := by
  rw [BitVec.getLsbD, Nat.testBit_eq_decide_div_mod_eq]
  rcases Nat.mod_two_eq_zero_or_one (f.toNat / 64) with h | h <;> simp [h, lineOfBit, lineBit]

theorem toNat_low_bits (f : Frame) (n : Nat) : (f.extractLsb' 0 n).toNat = f.toNat % 2 ^ n := by
  simp

/-- R49: a frame with RS set is the frame of its byte as a character. -/
theorem mkFrame_true_of_bit8 {f : Frame} (h : f.getLsbD 8 = true) : mkFrame true (f.extractLsb' 0 8) = f := by
  have := (bit8_iff f).mp h
  refine BitVec.eq_of_toNat_eq ?_
  rw [toNat_mkFrame, toNat_low_bits, Bool.toNat_true]
  omega

/-- R48: a frame with RS clear and bit 7 set is the frame of the address in its other bits. -/
theorem mkFrame_setaddr_of_bit7 {f : Frame} (h8 : ¬ f.getLsbD 8 = true) (h7 : f.getLsbD 7 = true) :
    mkFrame false (enc (.setaddr (lineOfBit (f.getLsbD 6)) (f.extractLsb' 0 6))) = f := by
  rw [bit8_iff] at h8
  rw [bit7_iff] at h7
  refine BitVec.eq_of_toNat_eq ?_
  rw [toNat_mkFrame, toNat_enc_setaddr, toNat_lineBit_lineOfBit, toNat_low_bits, Bool.toNat_false]
  omega

/-! ## The decoder inverts the frames of the rows -/

theorem decodeFrame_of_bit8 {f : Frame} (h : f.getLsbD 8 = true) :
    decodeFrame f = some (.character (f.extractLsb' 0 8)) := by
  simp only [decodeFrame, h, if_true]

theorem decodeFrame_of_bit7 {f : Frame} (h8 : f.getLsbD 8 = false) (h7 : f.getLsbD 7 = true) :
    decodeFrame f = some (.setAddress (lineOfBit (f.getLsbD 6)) (f.extractLsb' 0 6)) := by
  simp only [decodeFrame, h8, h7, if_true, Bool.false_eq_true, if_false]

theorem decodeFrame_mkFrame_true (c : Byte) : decodeFrame (mkFrame true c) = some (.character c) := by
  have h8 : (mkFrame true c).getLsbD 8 = true := by
    rw [bit8_iff, toNat_mkFrame, Bool.toNat_true]
    omega
  have hc : (mkFrame true c).extractLsb' 0 8 = c := by
    refine BitVec.eq_of_toNat_eq ?_
    rw [toNat_low_bits, toNat_mkFrame, Bool.toNat_true]
    omega
  rw [decodeFrame_of_bit8 h8, hc]

theorem lineBit_injective {l m : Line} (h : (lineBit l).toNat = (lineBit m).toNat) : l = m := by
  cases l <;> cases m <;> simp_all [lineBit]

theorem decodeFrame_mkFrame_setaddr (l : Line) (col : BitVec 6) :
    decodeFrame (mkFrame false (enc (.setaddr l col))) = some (.setAddress l col) := by
  obtain ⟨f, hf⟩ : ∃ f, f = mkFrame false (enc (.setaddr l col)) := ⟨_, rfl⟩
  have hbit := (lineBit l).isLt
  have hn : f.toNat = 128 + (lineBit l).toNat * 64 + col.toNat := by
    rw [hf, toNat_mkFrame, toNat_enc_setaddr, Bool.toNat_false]
    omega
  have h8 : f.getLsbD 8 = false := by
    rw [← Bool.not_eq_true, bit8_iff]
    omega
  have h7 : f.getLsbD 7 = true := by
    rw [bit7_iff]
    omega
  have hl : lineOfBit (f.getLsbD 6) = l := lineBit_injective (by rw [toNat_lineBit_lineOfBit]; omega)
  have hcol : f.extractLsb' 0 6 = col := BitVec.eq_of_toNat_eq (by rw [toNat_low_bits]; omega)
  rw [← hf, decodeFrame_of_bit7 h8 h7, hl, hcol]

/-- The frame row of an Instruction Code (R57). -/
def rowOfCode : InstrCode → Instr
  | .clear => .clearDisplay
  | .home => .returnHome
  | .dispon => .displayOn
  | .fset => .functionSet
  | .setaddr l col => .setAddress l col

theorem decodeFrame_enc (code : InstrCode) : decodeFrame (mkFrame false (enc code)) = some (rowOfCode code) := by
  cases code with
  | setaddr l col => exact decodeFrame_mkFrame_setaddr l col
  | clear | home | dispon | fset => rfl

/-- A decoded instruction sends the frame it was decoded from. -/
theorem frameOf_of_decodeFrame {f : Frame} {i : Instr} (h : decodeFrame f = some i) : frameOf i = some f := by
  unfold decodeFrame at h
  split_ifs at h with h8 h7 hclear hhome hon hfset <;> cases h
  · exact congrArg some (mkFrame_true_of_bit8 h8)
  · exact congrArg some (mkFrame_setaddr_of_bit7 h8 h7)
  · exact hclear ▸ rfl
  · exact hhome ▸ rfl
  · exact hon ▸ rfl
  · exact hfset ▸ rfl

/-- Every frame that is sent is the frame of a row. -/
theorem exists_decodeFrame_of_frameOf {i : Instr} {f : Frame} (h : frameOf i = some f) :
    ∃ j, decodeFrame f = some j := by
  cases i <;> cases h
  case clearDisplay => exact ⟨_, decodeFrame_enc .clear⟩
  case returnHome => exact ⟨_, decodeFrame_enc .home⟩
  case displayOn => exact ⟨_, decodeFrame_enc .dispon⟩
  case functionSet => exact ⟨_, decodeFrame_enc .fset⟩
  case setAddress l col => exact ⟨_, decodeFrame_enc (.setaddr l col)⟩
  case sendInstruction code => exact ⟨_, decodeFrame_enc code⟩
  case character c => exact ⟨_, decodeFrame_mkFrame_true c⟩
  case sendCharacter c => exact ⟨_, decodeFrame_mkFrame_true c⟩

/-- Settles O15: a sent frame decodes, and what it decodes to sends it. -/
theorem sentFramesDecode : Obligations.SentFramesDecode := by
  refine ⟨fun i f h => ?_, fun f j => frameOf_of_decodeFrame⟩
  obtain ⟨j, hj⟩ := exists_decodeFrame_of_frameOf h
  exact ⟨j, hj, frameOf_of_decodeFrame hj⟩

/-! ## The rows of the table -/

theorem decodeFrame_eq_none_iff (f : Frame) :
    decodeFrame f = none ↔ (¬ f.getLsbD 8 = true ∧ ¬ f.getLsbD 7 = true) ∧
      f ≠ 0x001#9 ∧ f ≠ 0x002#9 ∧ f ≠ 0x00C#9 ∧ f ≠ 0x028#9 := by
  unfold decodeFrame
  split_ifs with h8 h7 hclear hhome hon hfset <;> simp only [false_iff, true_iff] <;> tauto

theorem rowMatches_allBits (name : String) (p f : Frame) : rowMatches ⟨name, p, 0x1FF#9⟩ f = true ↔ f = p := by
  have hall : f &&& 0x1FF#9 = f := BitVec.and_allOnes
  simp only [rowMatches, hall, beq_iff_eq]

theorem rowMatches_character (name : String) (f : Frame) :
    rowMatches ⟨name, 0x100#9, 0x100#9⟩ f = true ↔ f.getLsbD 8 = true := by
  have hbit : f &&& 0x100#9 = if f.getLsbD 8 then 0x100#9 else 0#9 := BitVec.and_twoPow f 8
  cases h8 : f.getLsbD 8 <;> simp only [rowMatches, hbit, h8] <;> decide

theorem rowMatches_setAddress (name : String) (f : Frame) :
    rowMatches ⟨name, 0x080#9, 0x180#9⟩ f = true ↔ ¬ f.getLsbD 8 = true ∧ f.getLsbD 7 = true := by
  have hbits : f &&& 0x180#9 = (if f.getLsbD 8 then 0x100#9 else 0#9) ||| (if f.getLsbD 7 then 0x080#9 else 0#9) := by
    calc f &&& 0x180#9 = (f &&& 0x100#9) ||| (f &&& 0x080#9) :=
          BitVec.and_or_distrib_left (y := 0x100#9) (z := 0x080#9)
      _ = _ := congrArg₂ _ (BitVec.and_twoPow f 8) (BitVec.and_twoPow f 7)
  cases h8 : f.getLsbD 8 <;> cases h7 : f.getLsbD 7 <;> simp only [rowMatches, hbits, h8, h7] <;> decide

/-- R57: no two rows match one frame. -/
theorem frameRows_disjoint :
    frameRows.Pairwise fun r q => ∀ f : Frame, ¬ (rowMatches r f = true ∧ rowMatches q f = true) := by
  simp only [frameRows, List.pairwise_cons, List.forall_mem_cons, rowMatches_allBits, rowMatches_setAddress,
    rowMatches_character]
  simp +contextual

theorem decodeFrame_eq_none_iff_rows (f : Frame) :
    decodeFrame f = none ↔ ∀ r ∈ frameRows, rowMatches r f = false := by
  simp only [decodeFrame_eq_none_iff, frameRows, List.forall_mem_cons, ← Bool.not_eq_true, rowMatches_allBits,
    rowMatches_setAddress, rowMatches_character, List.not_mem_nil]
  tauto

/-- Settles O14: a row's mask fixes the frame, or the bits 8 and 7 that the decoder reads. -/
theorem frameDecodingFollowsTable : Obligations.FrameDecodingFollowsTable := by
  refine ⟨decodeFrame_eq_none_iff_rows, frameRows_disjoint, fun f => ⟨fun h8 => ?_, fun h8 h7 => ?_, ?_⟩⟩
  · rw [decodeFrame_of_bit8 h8, BitVec.setWidth_eq_extractLsb' (by decide)]
  · rw [decodeFrame_of_bit7 h8 h7, BitVec.setWidth_eq_extractLsb' (by decide)]
    rfl
  · exact ⟨fun h => h ▸ rfl, fun h => h ▸ rfl, fun h => h ▸ rfl, fun h => h ▸ rfl⟩

end Sys2Proof.Encoding
end

section
/-! Transcription of written commands (30_encoding.md R52, R54), over the decoder of frames; a table word in the list;
the expansions of `LINE` and `CLRLINE` (R56). -/

namespace Sys2Proof.Transcription

open Sys2Proof.Machine Sys2Proof.Safety Sys2Proof.Encoding

/-! ## Decode after encode -/

theorem decode_frame_toNat {f : Frame} {i : Instr} (h : decodeFrame f = some i) : decode (.frame f.toNat) = .ok i := by
  have hf : f.toNat ≤ 0x1FF := Nat.le_of_lt_succ f.isLt
  simp [decode, hf, h]

theorem decodeCode_encodeCode (code : InstrCode) : decodeCode (encodeCode code) = .ok code := by
  cases code with
  | setaddr l col =>
    have hcol : col.toNat ≤ 63 := Nat.le_of_lt_succ col.isLt
    cases l <;> simp [encodeCode, decodeCode, lineOfNat, hcol]
  | clear | home | dispon | fset => rfl

/-- Settles O12: a frame row by its frame, a host command by its own form. -/
theorem decodeEncodeRoundTrip : Obligations.DecodeEncodeRoundTrip := by
  intro i
  cases i with
  | clearDisplay | returnHome | displayOn | functionSet => exact decode_frame_toNat rfl
  | setAddress l col => exact decode_frame_toNat (decodeFrame_mkFrame_setaddr l col)
  | character c => exact decode_frame_toNat (decodeFrame_mkFrame_true c)
  | sendNibble v => simp [encode, decode, Nat.le_of_lt_succ v.isLt]
  | sendByte b => simp [encode, decode, Nat.le_of_lt_succ b.isLt]
  | sendInstruction code => simp [encode, decode, decodeCode_encodeCode]
  | sendCharacter c => simp [encode, decode, Nat.le_of_lt_succ c.isLt]
  | portInit => rfl
  | wait k => rfl

/-! ## Acceptance and refusal -/

/-- A range check answers an instruction exactly within the range. -/
theorem exists_ite_ok_iff {p : Prop} [Decidable p] {i : Instr} {e : DecodeError} :
    (∃ j, (if p then .ok i else .error e : Except DecodeError Instr) = .ok j) ↔ p := by
  by_cases hp : p <;> simp [hp]

theorem lineOfNat_eq_none_iff (l : Nat) : lineOfNat l = none ↔ l ≠ 1 ∧ l ≠ 2 := by
  unfold lineOfNat
  split_ifs with h1 h2 <;> simp [*]

theorem decodeCode_setaddr_error {l col : Nat} (h : 63 < col ∨ (l ≠ 1 ∧ l ≠ 2)) :
    decodeCode (.setaddr l col) = .error .range := by
  cases hl : lineOfNat l with
  | none => simp only [decodeCode, hl]
  | some ln =>
    have hcol : ¬ col ≤ 63 := by
      refine Nat.not_le.mpr (h.resolve_right fun hne => ?_)
      simp [(lineOfNat_eq_none_iff l).mpr hne] at hl
    simp only [decodeCode, hl, hcol, if_false]

/-- A `SETADDR` whose line or column is out of range is refused, and every other one is an Instruction Code. -/
theorem exists_decodeCode_iff (code : SourceCode) : (∃ c, decodeCode code = .ok c) ↔ code.wellFormed = true := by
  cases code with
  | setaddr l col =>
    by_cases h : 63 < col ∨ (l ≠ 1 ∧ l ≠ 2)
    · have hbad : ¬ ((l = 1 ∨ l = 2) ∧ col ≤ 63) := by omega
      simpa [decodeCode_setaddr_error h, SourceCode.wellFormed] using hbad
    · obtain ⟨hcol, rfl | rfl⟩ : col ≤ 63 ∧ (l = 1 ∨ l = 2) := by omega
      all_goals simp [decodeCode, lineOfNat, SourceCode.wellFormed, hcol]
  | clear | home | dispon | fset | rawByte => simp [decodeCode, SourceCode.wellFormed]

theorem exists_decode_instr_iff (code : SourceCode) :
    (∃ i, decode (.instr code) = .ok i) ↔ ∃ c, decodeCode code = .ok c := by
  cases h : decodeCode code <;> simp [decode, h]

theorem exists_decode_frame_iff (f : Nat) :
    (∃ i, decode (.frame f) = .ok i) ↔ f ≤ 0x1FF ∧ decodeFrame (BitVec.ofNat 9 f) ≠ none := by
  by_cases hf : f ≤ 0x1FF
  · cases h : decodeFrame (BitVec.ofNat 9 f) <;> simp [decode, hf, h]
  · simp [decode, hf]

theorem decodeFrame_ne_none_iff_toNat (f : Frame) :
    decodeFrame f ≠ none ↔
      128 ≤ f.toNat ∨ f.toNat = 0x01 ∨ f.toNat = 0x02 ∨ f.toNat = 0x0C ∨ f.toNat = 0x28 := by
  have hf := f.isLt
  simp only [Ne, decodeFrame_eq_none_iff, bit8_iff, bit7_iff, BitVec.toNat_eq, BitVec.toNat_ofNat]
  omega

/-- Settles O17: command by command, the range check, the operand of `INSTR`, or the frame. -/
theorem transcriptionAcceptsWellFormed : Obligations.TranscriptionAcceptsWellFormed := by
  intro c
  cases c with
  | nib v => exact exists_ite_ok_iff.trans decide_eq_true_iff.symm
  | byte b => exact exists_ite_ok_iff.trans decide_eq_true_iff.symm
  | char c => exact exists_ite_ok_iff.trans decide_eq_true_iff.symm
  | instr code => exact (exists_decode_instr_iff code).trans (exists_decodeCode_iff code)
  | pinit => exact iff_of_true ⟨_, rfl⟩ rfl
  | wait k => exact iff_of_true ⟨_, rfl⟩ rfl
  | frame f =>
    rw [exists_decode_frame_iff, decodeFrame_ne_none_iff_toNat, BitVec.toNat_ofNat]
    simp only [Command.wellFormed, frameWellFormed, Bool.or_eq_true, Bool.and_eq_true, decide_eq_true_eq, beq_iff_eq]
    omega

/-- Settles O18: a failed range check, or no Instruction Code for the operand of `INSTR`. -/
theorem transcriptionRefusals : Obligations.TranscriptionRefusals := by
  refine ⟨fun v hv => ?_, fun b hb => ⟨?_, ?_⟩, fun l col h => ?_, fun b _ => rfl⟩
  · exact if_neg (Nat.not_le.mpr hv)
  · exact if_neg (Nat.not_le.mpr hb)
  · exact if_neg (Nat.not_le.mpr hb)
  · simp only [decode, decodeCode_setaddr_error h]

/-! ## A table word in the list -/

theorem decodeTableWord_eq_some {nbits w : Nat} {i : Instr} (h : decodeTableWord nbits w = some i) :
    decode (.frame (w % 2 ^ nbits)) = .ok i := by
  unfold decodeTableWord at h
  split at h
  · next hd => cases h; exact hd
  · cases h

/-- A list of delays and one more command transcribes, whatever source line it starts on. -/
theorem transcribe_delays_then {c : Command} {i : Instr} (hd : decode c = .ok i) (pc n : Nat) :
    transcribe (numbered n (List.replicate pc (.wait .settle) ++ [c]))
      = .ok (List.replicate pc (.wait .settle) ++ [i]) := by
  induction pc generalizing n with
  | zero => simp [numbered, transcribe, hd]
  | succ pc ih => simp [List.replicate_succ, numbered, transcribe, decode, ih]

/-- Settles O4: the loaded list transcribes to the word's instruction at `pc`, so the step fetches it. -/
theorem fetchWordRuns : Obligations.FetchWordRuns := by
  intro s nbits w i hf hl hw
  have hl' : launchRefusal (s.withFetchWord nbits w) = none :=
    (launchRefusal_none _).mpr ((launchRefusal_none s).mp hl)
  refine step_of_fetch hf (fetch_of hl' (transcribe_delays_then (decodeTableWord_eq_some hw) s.pc 1) ?_)
  simp [State.withFetchWord]

/-- Settles O13: each word by evaluation. -/
theorem wordsOfEachRowDecode : Obligations.WordsOfEachRowDecode :=
  ⟨rfl, rfl, rfl, rfl, rfl, rfl, rfl, rfl, rfl, rfl, rfl, rfl⟩

/-! ## `LINE` and `CLRLINE` (R56) -/

theorem length_charCommands (blank : Byte) (text : List Byte) : (charCommands blank text).length = 16 := by
  simp [charCommands, paddedText]

theorem charCommands_getElem? (blank : Byte) (text : List Byte) {k : Nat} (hk : k < 16) :
    (charCommands blank text)[k]? = some (.char (text.getD k blank).toNat) := by
  simp [charCommands, paddedText, hk]

/-- Characters ask nothing of the command before them (R113). -/
theorem line2Guarded_chars (prev : Option Command) (bs : List Byte) :
    line2Guarded prev (bs.map fun b => .char b.toNat) = true := by
  induction bs generalizing prev with
  | nil => rfl
  | cons b bs ih => exact ih _

theorem line2Guarded_lineCommands (blank : Byte) (l : Line) (text : List Byte) :
    line2Guarded none (lineCommands blank l text) = true := by
  cases l with
  | line1 => exact line2Guarded_chars _ _
  | line2 => exact line2Guarded_chars _ _

/-- Settles O19: both lines end in the same sixteen `CHAR` commands. -/
theorem lineExpansion : Obligations.LineExpansion := by
  intro blank text
  refine ⟨⟨charCommands blank text, rfl, rfl, length_charCommands blank text, fun k hk h => ?_, fun k hk h => ?_⟩,
    fun l => line2Guarded_lineCommands blank l text, rfl, rfl, fun l h1 h2 => ?_⟩
  · rw [charCommands_getElem? blank text hk, List.getD_eq_getElem _ _ h]
  · rw [charCommands_getElem? blank text hk, List.getD_eq_default _ _ h]
  · simp only [expand, (lineOfNat_eq_none_iff l).mpr ⟨h1, h2⟩]

end Sys2Proof.Transcription
end

section
/-! The nibble cycle (30_encoding.md R45, R50): the placed nibble, the values `OUT` takes, and what the display
latches. -/

namespace Sys2Proof.NibbleCycle

open Sys2Proof.Machine Sys2Proof.Safety Sys2Proof.StateRules

/-! ## The placed nibble and the nibble split -/

theorem placeNibble_eq_shiftLeft {c : Config} (hd : c.dataShift + 3 < c.portWidth) (v : Nibble) :
    placeNibble c v = v.toNat <<< c.dataShift := by
  refine Nat.eq_of_testBit_eq fun i => ?_
  rw [testBit_placeNibble, Nat.testBit_shiftLeft]
  cases hv : v.toNat.testBit (i - c.dataShift) with
  | false => simp
  | true =>
    have := nibble_testBit_lt v _ hv
    have hi : i < c.portWidth := by omega
    simp [hi]

/-- R19: the data field is the nibble whose bits stand on the four data lines. -/
theorem dataOf_eq {c : Config} {o : PortWord} {v : Nibble}
    (h : ∀ k, k < 4 → o.testBit (c.dataShift + k) = v.toNat.testBit k) : dataOf c o = v := by
  have h0 := h 0 (by decide)
  rw [Nat.add_zero] at h0
  rw [dataOf, h0, h 1 (by decide), h 2 (by decide), h 3 (by decide), nibbleOfBits_testBits]

theorem dataOf_placeNibble {c : Config} (hd : c.dataShift + 3 < c.portWidth) (v : Nibble) :
    dataOf c (placeNibble c v) = v :=
  dataOf_eq fun k _ => by simp [placeNibble_eq_shiftLeft hd, Nat.testBit_shiftLeft]

theorem placeNibble_and_dataM {c : Config} (hd : c.dataShift + 3 < c.portWidth) (v : Nibble) :
    placeNibble c v &&& dataM c = placeNibble c v := by
  have hv : v.toNat &&& 0xF = v.toNat := Nat.and_two_pow_sub_one_of_lt_two_pow v.isLt
  rw [placeNibble_eq_shiftLeft hd, Masks.dataM_eq_shiftLeft hd, ← Nat.shiftLeft_and_distrib, hv]

theorem toNat_hiNibble (b : Byte) : (hiNibble b).toNat = b.toNat / 16 := by
  have := b.isLt
  simp only [hiNibble, BitVec.extractLsb'_toNat, Nat.shiftRight_eq_div_pow]
  omega

theorem toNat_loNibble (b : Byte) : (loNibble b).toNat = b.toNat % 16 := by
  simp [loNibble]

theorem hiNibble_append_loNibble (b : Byte) : hiNibble b ++ loNibble b = b := by
  refine BitVec.eq_of_toNat_eq ?_
  calc (hiNibble b ++ loNibble b).toNat = (hiNibble b).toNat <<< 4 ||| (loNibble b).toNat := BitVec.toNat_append _ _
    _ = b.toNat := by
      rw [← Nat.shiftLeft_add_eq_or_of_lt (loNibble b).isLt, Nat.shiftLeft_eq, toNat_hiNibble, toNat_loNibble]
      omega

/-- Settles O21: the placed nibble is the nibble shifted to the data lines, and `b` is `hi * 16 + lo`. -/
theorem operandAssembly : Obligations.OperandAssembly := by
  refine ⟨fun c v hc => ?_, fun b => ⟨toNat_hiNibble b, toNat_loNibble b, hiNibble_append_loNibble b⟩⟩
  obtain ⟨hd, -⟩ := (configValid_iff c).mp hc
  exact ⟨dataOf_placeNibble hd v, placeNibble_and_dataM hd v, placeNibble_eq_shiftLeft hd v, BitVec.isLt _⟩

/-! ## The values of `OUT` in a nibble cycle -/

/-- `OUT` in a nibble cycle from `o`: EN at `en`, and the nibble `v` on the data lines. -/
def cycleWord (c : Config) (o : PortWord) (en : Bool) (v : Nibble) : PortWord :=
  (if en then o ||| 1 <<< c.enBit else o) ||| v.toNat <<< c.dataShift

theorem testBit_cycleWord (c : Config) (o : PortWord) (en : Bool) (v : Nibble) (i : Nat) :
    (cycleWord c o en v).testBit i
      = (o.testBit i || (en && decide (i = c.enBit))
          || (decide (c.dataShift ≤ i) && v.toNat.testBit (i - c.dataShift))) := by
  have hen : (1 <<< c.enBit).testBit i = decide (i = c.enBit) := by
    rw [Nat.one_shiftLeft, Nat.testBit_two_pow, decide_eq_decide]
    exact eq_comm
  cases en <;> simp [cycleWord, Nat.testBit_or, hen, Nat.testBit_shiftLeft]

/-- A cycle starts and ends in this value (R45). -/
theorem cycleWord_idle (c : Config) (o : PortWord) : cycleWord c o false 0#4 = o := by
  simp [cycleWord]

/-- A value of `OUT` that a nibble cycle can start from: in range, with EN and the data lines at 0 (R28). -/
structure IdleOut (c : Config) (o : PortWord) : Prop where
  valid : configValid c = true
  lt : o < 2 ^ c.portWidth
  low : ∀ k, StrobeOrData c k → o.testBit k = false

theorem nibble_bit_dataLine {c : Config} {v : Nibble} {i : Nat}
    (h : (decide (c.dataShift ≤ i) && v.toNat.testBit (i - c.dataShift)) = true) :
    c.dataShift ≤ i ∧ i ≤ c.dataShift + 3 := by
  obtain ⟨hle, hv⟩ := (Bool.and_eq_true _ _).mp h
  have := nibble_testBit_lt v _ hv
  have := of_decide_eq_true hle
  omega

theorem nibble_bit_eq_false {c : Config} (v : Nibble) {i : Nat} (hi : ¬ (c.dataShift ≤ i ∧ i ≤ c.dataShift + 3)) :
    (decide (c.dataShift ≤ i) && v.toNat.testBit (i - c.dataShift)) = false := by
  rw [← Bool.not_eq_true]
  exact fun h => hi (nibble_bit_dataLine h)

section

variable {c : Config} {o : PortWord} (h : IdleOut c o)
include h

theorem enBitOf_cycleWord (en : Bool) (v : Nibble) : enBitOf c (cycleWord c o en v) = en := by
  obtain ⟨-, -, -, -, -, hen⟩ := (configValid_iff c).mp h.valid
  rw [enBitOf, testBit_cycleWord, h.low _ (.inl rfl), nibble_bit_eq_false v hen]
  simp

theorem rsBitOf_cycleWord (en : Bool) (v : Nibble) : rsBitOf c (cycleWord c o en v) = o.testBit c.rsBit := by
  obtain ⟨-, -, -, hne, hrs, -⟩ := (configValid_iff c).mp h.valid
  rw [rsBitOf, testBit_cycleWord, nibble_bit_eq_false v hrs]
  simp [hne]

theorem testBit_cycleWord_data (en : Bool) (v : Nibble) {k : Nat} (hk : k < 4) :
    (cycleWord c o en v).testBit (c.dataShift + k) = v.toNat.testBit k := by
  obtain ⟨-, -, -, -, -, hen⟩ := (configValid_iff c).mp h.valid
  have hne : c.dataShift + k ≠ c.enBit := by omega
  rw [testBit_cycleWord, h.low _ (.inr ⟨by omega, by omega⟩)]
  simp [hne]

theorem dataOf_cycleWord (en : Bool) (v : Nibble) : dataOf c (cycleWord c o en v) = v :=
  dataOf_eq fun _ hk => testBit_cycleWord_data h en v hk

/-- R44: the pin word of a value of the cycle. -/
theorem pinWord_cycleWord (en : Bool) (v : Nibble) :
    pinWord c (cycleWord c o en v) = v ++ BitVec.ofBool en ++ BitVec.ofBool (o.testBit c.rsBit) := by
  rw [pinWord, dataOf_cycleWord h, enBitOf_cycleWord h, rsBitOf_cycleWord h]

/-- A bit of the cycle is a bit of the port. -/
theorem lt_of_testBit_cycleWord {en : Bool} {v : Nibble} {i : Nat} (hi : (cycleWord c o en v).testBit i = true) :
    i < c.portWidth := by
  obtain ⟨hd, -, hen, -⟩ := (configValid_iff c).mp h.valid
  by_contra hge
  have ho : o.testBit i = false := testBit_ge_width h.lt (by omega)
  have hne : i ≠ c.enBit := by omega
  rw [testBit_cycleWord, ho, nibble_bit_eq_false v (by omega)] at hi
  simp [hne] at hi

theorem eq_cycleWord {a : PortWord} {en : Bool} {v : Nibble} (ha : a < 2 ^ c.portWidth)
    (hbits : ∀ i, i < c.portWidth → a.testBit i = (cycleWord c o en v).testBit i) : a = cycleWord c o en v := by
  refine Nat.eq_of_testBit_eq fun i => ?_
  by_cases hi : i < c.portWidth
  · exact hbits i hi
  · rw [testBit_ge_width ha (by omega), eq_comm, ← Bool.not_eq_true]
    exact fun hbit => hi (lt_of_testBit_cycleWord h hbit)

/-- The first write of R60 raises EN. -/
theorem wordOr_enM : wordOr c.portWidth o (enM c) = cycleWord c o true 0#4 := by
  refine eq_cycleWord h (wordOr_lt _ _ _) fun i hi => ?_
  simp [testBit_wordOr, testBit_enM, testBit_cycleWord, hi]

/-- The second write puts the nibble on the data lines. -/
theorem wordOr_placeNibble (v : Nibble) :
    wordOr c.portWidth (cycleWord c o true 0#4) (placeNibble c v) = cycleWord c o true v := by
  refine eq_cycleWord h (wordOr_lt _ _ _) fun i hi => ?_
  simp [testBit_wordOr, testBit_placeNibble, testBit_cycleWord, hi]

/-- The third write is the falling edge (R62). -/
theorem wordAndNot_enM (v : Nibble) :
    wordAndNot c.portWidth (cycleWord c o true v) (enM c) = cycleWord c o false v := by
  refine eq_cycleWord h (wordAndNot_lt _ _ _) fun i hi => ?_
  by_cases hen : i = c.enBit
  · have hlow : (cycleWord c o false v).testBit c.enBit = false := enBitOf_cycleWord h false v
    have hw : c.enBit < c.portWidth := hen ▸ hi
    simp [testBit_wordAndNot, testBit_enM, hw, hen, hlow]
  · simp [testBit_wordAndNot, testBit_enM, testBit_cycleWord, hi, hen]

/-- The fourth write clears the data lines. -/
theorem wordAndNot_dataM (v : Nibble) :
    wordAndNot c.portWidth (cycleWord c o false v) (dataM c) = cycleWord c o false 0#4 := by
  refine eq_cycleWord h (wordAndNot_lt _ _ _) fun i hi => ?_
  by_cases hd : c.dataShift ≤ i ∧ i ≤ c.dataShift + 3
  · simp [testBit_wordAndNot, testBit_dataM, testBit_cycleWord, hi, hd, h.low i (.inr hd)]
  · have hdata : (decide (c.dataShift ≤ i) && decide (i ≤ c.dataShift + 3)) = false := by simpa using hd
    rw [cycleWord_idle, testBit_wordAndNot, testBit_dataM, hdata, testBit_cycleWord, nibble_bit_eq_false v hd]
    simp [hi]

end

theorem nibbleEvents_eq (c : Config) (o : PortWord) (v : Nibble) :
    nibbleEvents c o v = [.outW (cycleWord c o true 0#4), .outW (cycleWord c o true v), .outW (cycleWord c o false v),
      .outW (cycleWord c o false 0#4)] := by
  simp [nibbleEvents, cycleWord]

/-! ## What the display sees of it -/

/-- R28: the six owned lines are outputs. -/
def OwnedDriven (c : Config) (d : PortWord) : Prop := ∀ k, ownedLine c k = true → d.testBit k = true

/-- R95, R96: the RS and data levels where those lines are driven and the write leaves them alone. -/
theorem sampleLatch_of_unchanged {c : Config} {n : Nat} {o d o' : PortWord}
    (hdrv : OwnedDriven c d) (hrs : o.testBit c.rsBit = o'.testBit c.rsBit)
    (hdata : ∀ k, k < 4 → o.testBit (c.dataShift + k) = o'.testBit (c.dataShift + k)) :
    sampleLatch c n o d o' d = ⟨rsBitOf c o', dataOf c o'⟩ := by
  have hline (i : Nat) (hi : ownedLine c i = true) (ho : o.testBit i = o'.testBit i) :
      sampleLine n o d o' d i = o'.testBit i := by
    simp [sampleLine, lineLevel, ho, hdrv i hi]
  have hnib (k : Nat) (hk : k < 4) : sampleLine n o d o' d (c.dataShift + k) = o'.testBit (c.dataShift + k) :=
    hline _ ((Masks.ownedLine_iff c _).mpr (by omega)) (hdata k hk)
  have h0 := hnib 0 (by decide)
  rw [Nat.add_zero] at h0
  rw [sampleLatch, hline _ ((Masks.ownedLine_iff c _).mpr (.inl rfl)) hrs, h0, hnib 1 (by decide), hnib 2 (by decide),
    hnib 3 (by decide)]
  rfl

section

variable {c : Config} {o d : PortWord} {n : Nat} (h : IdleOut c o) (hdrv : OwnedDriven c d)
include h hdrv

/-- R96: what a write of the cycle latches is decided by the driven EN. -/
theorem latchHappens_cycleWord (en en' : Bool) (v v' : Nibble) :
    latchHappens c n (cycleWord c o en v) d (cycleWord c o en' v') d = (en && !en') := by
  have hen := hdrv c.enBit ((Masks.ownedLine_iff c _).mpr (.inr (.inl rfl)))
  rw [latchHappens, hen, enBitOf_cycleWord h, enBitOf_cycleWord h]
  rfl

theorem seeWrite_of_not_falling {en en' : Bool} (hf : (en && !en') = false) (v v' : Nibble) (disp : Display) :
    seeWrite c n (cycleWord c o en v) d (cycleWord c o en' v') d disp = disp := by
  rw [seeWrite, latchHappens_cycleWord h hdrv, hf]
  rfl

/-- R45, R96: where EN falls, RS and the data lines stand still, and the display latches their levels. -/
theorem seeWrite_of_falling (v : Nibble) (disp : Display) :
    seeWrite c n (cycleWord c o true v) d (cycleWord c o false v) d disp
      = latchNibble n ⟨o.testBit c.rsBit, v⟩ disp := by
  have hrs : (cycleWord c o true v).testBit c.rsBit = (cycleWord c o false v).testBit c.rsBit :=
    (rsBitOf_cycleWord h true v).trans (rsBitOf_cycleWord h false v).symm
  have hdata (k : Nat) (hk : k < 4) :
      (cycleWord c o true v).testBit (c.dataShift + k) = (cycleWord c o false v).testBit (c.dataShift + k) :=
    (testBit_cycleWord_data h true v hk).trans (testBit_cycleWord_data h false v hk).symm
  have hlatch : latchHappens c n (cycleWord c o true v) d (cycleWord c o false v) d = true :=
    latchHappens_cycleWord h hdrv true false v v
  rw [seeWrite, if_pos hlatch, sampleLatch_of_unchanged hdrv hrs hdata, rsBitOf_cycleWord h,
    dataOf_cycleWord h]

end

/-! ## SEND_NIBBLE -/

section

variable {s : State} (h : IdleOut s.cfg s.out)
include h

theorem nibbleBody_eq_writes (v : Nibble) :
    nibbleBody v s = writeOut (cycleWord s.cfg s.out false 0#4) (writeOut (cycleWord s.cfg s.out false v)
      (writeOut (cycleWord s.cfg s.out true v) (writeOut (cycleWord s.cfg s.out true 0#4) s))) := by
  simp only [nibbleBody, pinSet, pinClr, memRead, writeOut_out, writeOut_cfg, wordOr_enM h, wordOr_placeNibble h,
    wordAndNot_enM h, wordAndNot_dataM h]

theorem nibbleBody_display (hdrv : OwnedDriven s.cfg s.dirOut) (v : Nibble) :
    (nibbleBody v s).display = latchNibble (s.draws + 2) ⟨s.out.testBit s.cfg.rsBit, v⟩ s.display := by
  have hfirst : seeWrite s.cfg s.draws s.out s.dirOut (cycleWord s.cfg s.out true 0#4) s.dirOut s.display
      = s.display := by
    simpa only [cycleWord_idle] using seeWrite_of_not_falling h hdrv (en := false) rfl 0#4 0#4 s.display
  rw [nibbleBody_eq_writes h]
  simp only [writeOut_display, writeOut_out, writeOut_dirOut, writeOut_cfg, writeOut_draws]
  rw [hfirst, seeWrite_of_not_falling h hdrv rfl, seeWrite_of_falling h hdrv, seeWrite_of_not_falling h hdrv rfl]

/-- R45, R60, R96: a nibble cycle from idle, driven lines: `OUT` ends as it was, and the display latches the nibble at
the third write. -/
theorem nibbleBody_eq (hdrv : OwnedDriven s.cfg s.dirOut) (v : Nibble) :
    nibbleBody v s = { s with trace := s.trace ++ nibbleEvents s.cfg s.out v, draws := s.draws + 4,
                              display := latchNibble (s.draws + 2) ⟨s.out.testBit s.cfg.rsBit, v⟩ s.display } := by
  refine State_eq_of_fields _ _ ?_ rfl rfl rfl ?_ rfl rfl rfl rfl (nibbleBody_display h hdrv v) rfl
  · simp only [nibbleBody_eq_writes h, writeOut_out, cycleWord_idle]
  · simp [nibbleBody_eq_writes h, nibbleEvents_eq]

end

theorem readyIdle_idleOut {s : State} (h : ReadyIdle s) : IdleOut s.cfg s.out ∧ OwnedDriven s.cfg s.dirOut := by
  obtain ⟨hc, -, -, ⟨hlt, -⟩, hidle⟩ := h
  obtain ⟨hlow, hdrv⟩ := (IdleInvariant.idle_iff hc).mp hidle
  exact ⟨⟨hc, hlt, hlow⟩, hdrv⟩

theorem exec_sendNibble_of_readyIdle {s : State} (h : ReadyIdle s) (v : Nibble) :
    exec (.sendNibble v) s = .next (nibbleResult v s) := by
  obtain ⟨hout, hdrv⟩ := readyIdle_idleOut h
  obtain ⟨-, hfault, hready, -⟩ := h
  rw [TwoRuns.exec_completes hfault (.inr hready), bodyOf, nibbleBody_eq hout hdrv]
  rfl

/-- Settles O37: the four values of `OUT` are the cycle's with EN and data `(1, 0)`, `(1, v)`, `(0, v)`, `(0, 0)`. -/
theorem nibbleCyclePinWords : Obligations.NibbleCyclePinWords := by
  rintro s v _ h rfl
  obtain ⟨hout, -⟩ := readyIdle_idleOut h
  refine ⟨_, _, _, _, ?_, pinWord_cycleWord hout true 0#4, pinWord_cycleWord hout true v,
    pinWord_cycleWord hout false v, pinWord_cycleWord hout false 0#4⟩
  rw [← nibbleEvents_eq]
  exact exec_sendNibble_of_readyIdle h v

end Sys2Proof.NibbleCycle
end

section
/-! The Bus Transmitter family (40_bus_transmitter.md): what SEND_NIBBLE and SEND_BYTE end in on every path, a byte as two
nibbles, and what both leave unchanged. -/

namespace Sys2Proof.BusTransmitter

open Sys2Proof.Machine Sys2Proof.Safety Sys2Proof.StateRules Sys2Proof.NibbleCycle Sys2Proof.TwoRuns

/-- R88: what a transfer ends in before PORT_INIT. -/
theorem exec_uninit {i : Instr} (hi : i.isTransfer = true) {s : State} (hf : s.fault = none) (hr : s.ready = false) :
    exec i s = .next (uninitResult i s) :=
  (exec_transfer i hi s).trans (transfer_uninit hf hr)

/-- From a ready state an instruction that answers a next state has run. -/
theorem exec_next_of_ready {i : Instr} {s t : State} (hr : s.ready = true) (he : exec i s = .next t) :
    s.fault = none ∧ t = advance (bodyOf i s) := by
  obtain ⟨hfault, ⟨-, ht⟩ | ⟨-, hnot, -⟩⟩ := exec_next he
  · exact ⟨hfault, ht⟩
  · exact absurd (hr.symm.trans hnot) (by decide)

/-- Settles O22: the transcription, the fault entry, and the nibble cycle from a ready idle state. -/
theorem sendNibble : Obligations.SendNibble := fun v =>
  ⟨Transcription.decodeEncodeRoundTrip (.sendNibble v), fun _ hf hr => exec_uninit rfl hf hr,
    fun _ hs => exec_sendNibble_of_readyIdle hs v⟩

/-! ## SEND_BYTE -/

theorem hiNibble_eq (b : Byte) : hiNibble b = (b >>> 4).setWidth 4 := by
  refine BitVec.eq_of_toNat_eq ?_
  have hb := b.isLt
  rw [toNat_hiNibble, BitVec.toNat_setWidth, BitVec.toNat_ushiftRight, Nat.shiftRight_eq_div_pow]
  omega

theorem loNibble_eq (b : Byte) : loNibble b = (b &&& 0x0F#8).setWidth 4 := by
  refine BitVec.eq_of_toNat_eq ?_
  have hmask : b.toNat &&& (0x0F#8).toNat = b.toNat % 16 := Nat.and_two_pow_sub_one_eq_mod b.toNat 4
  rw [toNat_loNibble, BitVec.toNat_setWidth, BitVec.toNat_and, hmask]
  omega

/-- R61, R96: two nibble cycles from idle, driven lines. The first leaves `OUT` as it was, so the second starts where the
first did. -/
theorem byteBody_eq {s : State} (h : IdleOut s.cfg s.out) (hdrv : OwnedDriven s.cfg s.dirOut) (b : Byte) :
    byteBody b s = { s with
      trace := s.trace ++ byteEvents s.cfg s.out b, draws := s.draws + 8,
      display := latchNibble (s.draws + 6) ⟨s.out.testBit s.cfg.rsBit, (b &&& 0x0F#8).setWidth 4⟩
        (latchNibble (s.draws + 2) ⟨s.out.testBit s.cfg.rsBit, (b >>> 4).setWidth 4⟩ s.display) } := by
  have hhi := nibbleBody_eq h hdrv (hiNibble b)
  have hout : IdleOut s.cfg (nibbleBody (hiNibble b) s).out := by rwa [hhi]
  have hlo := nibbleBody_eq (s := nibbleBody (hiNibble b) s) hout hdrv (loNibble b)
  rw [byteBody, hlo, hhi, byteEvents, hiNibble_eq, loNibble_eq, ← List.append_assoc]

theorem exec_sendByte_of_readyIdle {s : State} (h : ReadyIdle s) (b : Byte) :
    exec (.sendByte b) s = .next (byteResult b s) := by
  obtain ⟨hout, hdrv⟩ := readyIdle_idleOut h
  obtain ⟨-, hfault, hready, -⟩ := h
  rw [exec_completes hfault (.inr hready), bodyOf, byteBody_eq hout hdrv]
  rfl

/-- Settles O23: the transcription, the fault entry, and the two nibble cycles from a ready idle state. -/
theorem sendByte : Obligations.SendByte := fun b =>
  ⟨Transcription.decodeEncodeRoundTrip (.sendByte b), fun _ hf hr => exec_uninit rfl hf hr,
    fun _ hs => exec_sendByte_of_readyIdle hs b⟩

/-! ## A byte is two nibbles -/

/-- A nibble cycle neither reads nor moves `pc`. -/
theorem nibbleBody_advance (v : Nibble) (s : State) : nibbleBody v (advance s) = advance (nibbleBody v s) := rfl

/-- Settles O30: the second nibble runs on the state of the first with `pc` advanced, and the body of the byte is the two
nibbles' bodies. -/
theorem byteIsTwoNibbles : Obligations.ByteIsTwoNibbles := by
  intro b s u t hhi hlo hr
  obtain ⟨hfault, rfl⟩ := exec_next_of_ready hr hhi
  have hready : (advance (bodyOf (.sendNibble (hiNibble b)) s)).ready = true := hr
  obtain ⟨-, rfl⟩ := exec_next_of_ready hready hlo
  rw [exec_completes hfault (.inr hr), bodyOf, bodyOf, bodyOf, nibbleBody_advance]
  rfl

/-! ## What the family leaves unchanged -/

/-- R64: a nibble cycle keeps the RS bit. -/
theorem nibbleBody_out_rsBit (v : Nibble) {s : State} (hc : configValid s.cfg = true) :
    (nibbleBody v s).out.testBit s.cfg.rsBit = s.out.testBit s.cfg.rsBit := by
  obtain ⟨-, hlt, -, hne, hdata, -⟩ := (configValid_iff s.cfg).mp hc
  exact nibbleBody_out_testBit v s _ hlt hne hdata

theorem byteBody_out_rsBit (b : Byte) {s : State} (hc : configValid s.cfg = true) :
    (byteBody b s).out.testBit s.cfg.rsBit = s.out.testBit s.cfg.rsBit :=
  (nibbleBody_out_rsBit (loNibble b) (s := nibbleBody (hiNibble b) s) hc).trans (nibbleBody_out_rsBit (hiNibble b) hc)

theorem exec_fault_of_ready {i : Instr} {s t : State} (he : exec i s = .next t) (hr : s.ready = true) :
    t.fault = none := by
  obtain ⟨hnone, rfl⟩ := exec_next_of_ready hr he
  obtain ⟨hfault, -⟩ := bodyOf_fault_pc_program i s
  exact hfault.trans hnone

/-- Settles O31: the RS bit by the bodies of the family; the rest is what every instruction but PORT_INIT keeps. -/
theorem transmitterFrame : Obligations.TransmitterFrame := by
  intro s t i hi hc he
  have hne : i ≠ .portInit := by rintro rfl; simp at hi
  obtain ⟨hkept, -, -, hlaunch⟩ := StateFrame.onlyPortInitSetsDirection s t i he
  obtain ⟨hdir, hready⟩ := hkept hne
  have hbits := StateFrame.nonOwnedBitsKept s t i hc (fun hp => absurd hp hne) he
  refine ⟨?_, fun k hk ho => (hbits k hk ho).1, hdir, hready, hlaunch, exec_fault_of_ready he⟩
  obtain ⟨-, ⟨-, rfl⟩ | ⟨-, -, rfl⟩⟩ := exec_next he
  · obtain ⟨v, rfl⟩ | ⟨b, rfl⟩ := hi
    · exact nibbleBody_out_rsBit v hc
    · exact byteBody_out_rsBit b hc
  · rfl

end Sys2Proof.BusTransmitter
end

section
/-! What each instruction appends to the trace (30_encoding.md R53, 40_bus_transmitter.md R62, 41_codec.md R75), and where
EN falls in it. -/

namespace Sys2Proof.TransferTrace

open Sys2Proof.Machine Sys2Proof.Safety Sys2Proof.StateRules Sys2Proof.NibbleCycle Sys2Proof.TwoRuns
  Sys2Proof.BusTransmitter

/-! ## The kind and number of the events -/

/-- `t` comes after `s` with exactly `n` more events, all of them output writes. -/
def AppendsOut (n : Nat) (s t : State) : Prop :=
  ∃ a : List PortWord, a.length = n ∧ t.trace = s.trace ++ a.map .outW

theorem AppendsOut.trans {m n : Nat} {s t u : State} (h : AppendsOut m s t) (h' : AppendsOut n t u) :
    AppendsOut (m + n) s u := by
  obtain ⟨a, rfl, ha⟩ := h
  obtain ⟨b, rfl, hb⟩ := h'
  exact ⟨a ++ b, List.length_append, by rw [hb, ha, List.map_append, List.append_assoc]⟩

theorem nibbleBody_appendsOut (v : Nibble) (s : State) : AppendsOut 4 s (nibbleBody v s) :=
  ⟨[_, _, _, _], rfl, nibbleBody_trace v s⟩

theorem byteBody_appendsOut (b : Byte) (s : State) : AppendsOut 8 s (byteBody b s) :=
  (nibbleBody_appendsOut _ s).trans (nibbleBody_appendsOut _ _)

theorem writeRs_trace (rs : Bool) (s : State) : (writeRs rs s).trace = s.trace ++ [.outW (writeRs rs s).out] := by
  cases rs with
  | false => rfl
  | true => rfl

theorem writeRs_appendsOut (rs : Bool) (s : State) : AppendsOut 1 s (writeRs rs s) :=
  ⟨[_], rfl, writeRs_trace rs s⟩

/-- A frame's output writes all come after its settling delay (R75). -/
theorem frameBody_trace (rs : Bool) (b : Byte) (s : State) :
    ∃ a : List PortWord, a.length = 9 ∧ (frameBody rs b s).trace = s.trace ++ .waitE .settle :: a.map .outW := by
  have hwrites : AppendsOut 9 (waitFor .settle s) (frameBody rs b s) :=
    (writeRs_appendsOut rs _).trans (byteBody_appendsOut b (startFrame _))
  obtain ⟨a, ha, htrace⟩ := hwrites
  refine ⟨a, ha, ?_⟩
  rw [htrace, waitFor_trace, List.append_assoc, List.singleton_append]

/-- Settles O35: an instruction that completes appends what its body appends, and `pc` moves once. -/
theorem traceShape : Obligations.TraceShape := by
  intro s t i he hnone
  obtain ⟨-, ⟨-, rfl⟩ | ⟨-, -, rfl⟩⟩ := exec_next he
  · obtain ⟨-, hpc, -⟩ := bodyOf_fault_pc_program i s
    have hpc' : (advance (bodyOf i s)).pc = s.pc + 1 := congrArg (· + 1) hpc
    cases i with
    | sendNibble v =>
      obtain ⟨a, ha, htrace⟩ := nibbleBody_appendsOut v s
      exact ⟨_, htrace, hpc', a, ha, rfl⟩
    | sendByte b =>
      obtain ⟨a, ha, htrace⟩ := byteBody_appendsOut b s
      exact ⟨_, htrace, hpc', a, ha, rfl⟩
    | portInit => exact ⟨_, portInitBody_trace s, hpc', _, _, rfl⟩
    | wait k => exact ⟨_, waitFor_trace k s, hpc', rfl⟩
    | clearDisplay | returnHome | displayOn | functionSet | setAddress _ _ | sendInstruction _ | character _
    | sendCharacter _ =>
      obtain ⟨a, ha, htrace⟩ := frameBody_trace _ _ s
      exact ⟨_, htrace, hpc', a, ha, rfl⟩
  · cases hnone

/-! ## The falling edges of EN -/

theorem enBitOf_idle {c : Config} {o : PortWord} (h : IdleOut c o) : enBitOf c o = false := h.low _ (.inl rfl)

/-- R62: EN falls once in a nibble cycle, at its third write, and `OUT` is then as before. -/
theorem fallingEdges_nibbleEvents_append {c : Config} {o : PortWord} (h : IdleOut c o) (k : Nat) (v : Nibble)
    (es : List Event) :
    fallingEdges c o k (nibbleEvents c o v ++ es) = (k + 2) :: fallingEdges c o (k + 4) es := by
  simp only [nibbleEvents_eq, List.cons_append, List.nil_append, fallingEdges, enBitOf_cycleWord h, enBitOf_idle h,
    cycleWord_idle]
  simp

theorem fallingEdges_nibbleEvents {c : Config} {o : PortWord} (h : IdleOut c o) (k : Nat) (v : Nibble) :
    fallingEdges c o k (nibbleEvents c o v) = [k + 2] := by
  simpa [fallingEdges] using fallingEdges_nibbleEvents_append h k v []

theorem fallingEdges_byteEvents {c : Config} {o : PortWord} (h : IdleOut c o) (k : Nat) (b : Byte) :
    fallingEdges c o k (byteEvents c o b) = [k + 2, k + 6] := by
  rw [byteEvents, fallingEdges_nibbleEvents_append h, fallingEdges_nibbleEvents h]

/-- From EN at 0, a wait and a write make no falling edge, and the write counts. -/
theorem fallingEdges_wait_outW {c : Config} {o : PortWord} (h : enBitOf c o = false) (k : Nat) (w : WaitKind)
    (v : PortWord) (es : List Event) :
    fallingEdges c o k (.waitE w :: .outW v :: es) = fallingEdges c v (k + 1) es := by
  simp [fallingEdges, h]

/-- The RS write keeps EN and the data lines at 0. -/
theorem writeRs_idleOut (rs : Bool) {s : State} (h : IdleOut s.cfg s.out) :
    IdleOut s.cfg (writeRs rs s).out where
  valid := h.valid
  lt := writeRs_out_lt rs s
  low _ hk := (writeRs_out_testBit rs s (Masks.ownedLine_lt h.valid hk.owned) (hk.ne_rsBit h.valid)).trans (h.low _ hk)

/-- R75: a frame from idle, driven lines: the settling delay, the RS write, and the byte from the value it leaves. -/
theorem frameBody_trace_of_idle {s : State} (h : IdleOut s.cfg s.out) (hdrv : OwnedDriven s.cfg s.dirOut) (rs : Bool)
    (b : Byte) :
    ∃ o, IdleOut s.cfg o ∧
      (frameBody rs b s).trace = s.trace ++ .waitE .settle :: .outW o :: byteEvents s.cfg o b := by
  obtain ⟨hdir, -, -, -, hcfg, -⟩ := writeRs_keeps rs (waitFor .settle s)
  have hidle : IdleOut s.cfg (writeRs rs (waitFor .settle s)).out := writeRs_idleOut rs (s := waitFor .settle s) h
  refine ⟨_, hidle, ?_⟩
  rw [frameBody, byteBody_eq (by simpa [hcfg] using hidle) (by simpa [hcfg, hdir] using hdrv)]
  simp [writeRs_trace, hcfg]

/-- R75: EN falls at the fourth and the eighth write of a frame. -/
theorem frameBody_fallingEdges {s : State} (h : IdleOut s.cfg s.out) (hdrv : OwnedDriven s.cfg s.dirOut) (rs : Bool)
    (b : Byte) :
    ∃ es, (frameBody rs b s).trace = s.trace ++ es ∧ fallingEdges s.cfg s.out 1 es = [4, 8] := by
  obtain ⟨o, ho, htrace⟩ := frameBody_trace_of_idle h hdrv rs b
  refine ⟨_, htrace, ?_⟩
  rw [fallingEdges_wait_outW (enBitOf_idle h), fallingEdges_byteEvents ho]

/-- Settles O36: the edges are those of the nibble cycles, which a frame's RS write moves one write on. -/
theorem fallingEdgesOfTransfers : Obligations.FallingEdgesOfTransfers := by
  intro s i hs hi
  obtain ⟨hout, hdrv⟩ := readyIdle_idleOut hs
  obtain ⟨-, hfault, hready, -⟩ := hs
  have hexec : exec i s = .next (advance (bodyOf i s)) := exec_completes hfault (.inr hready)
  cases i with
  | sendNibble v =>
    have htrace : (nibbleBody v s).trace = s.trace ++ nibbleEvents s.cfg s.out v := by rw [nibbleBody_eq hout hdrv]
    exact ⟨_, _, hexec, htrace, fallingEdges_nibbleEvents hout 1 v⟩
  | sendByte b =>
    have htrace : (byteBody b s).trace = s.trace ++ byteEvents s.cfg s.out b := by rw [byteBody_eq hout hdrv]
    exact ⟨_, _, hexec, htrace, fallingEdges_byteEvents hout 1 b⟩
  | portInit | wait _ => cases hi
  | clearDisplay | returnHome | displayOn | functionSet | setAddress _ _ | sendInstruction _ | character _
  | sendCharacter _ =>
    obtain ⟨es, htrace, hedges⟩ := frameBody_fallingEdges hout hdrv _ _
    exact ⟨_, es, hexec, htrace, hedges⟩

end Sys2Proof.TransferTrace
end

section
/-! The codec's encoding function (41_codec.md R65): its values, and its inverse, which is the decoder of frames. -/

namespace Sys2Proof.CodecBytes

open Sys2Proof.Encoding

/-- R73: the byte of an address as a number. -/
theorem enc_setaddr_eq_ofNat (l : Line) (col : BitVec 6) :
    enc (.setaddr l col) = BitVec.ofNat 8 (128 + (lineBit l).toNat * 64 + col.toNat) := by
  rw [← toNat_enc_setaddr, BitVec.ofNat_toNat, BitVec.setWidth_eq]

theorem rowOfCode_injective {a b : InstrCode} (h : rowOfCode a = rowOfCode b) : a = b := by
  cases a <;> cases b <;> cases h <;> rfl

/-- The decoder recovers the code from the frame of its byte. -/
theorem enc_injective {a b : InstrCode} (h : enc a = enc b) : a = b := by
  have hrow : some (rowOfCode a) = some (rowOfCode b) := by rw [← decodeFrame_enc, ← decodeFrame_enc, h]
  exact rowOfCode_injective (Option.some.inj hrow)

theorem mkFrame_injective {rs : Bool} {a b : Byte} (h : mkFrame rs a = mkFrame rs b) : a = b := by
  refine BitVec.eq_of_toNat_eq ?_
  have hnum := congrArg BitVec.toNat h
  rw [toNat_mkFrame, toNat_mkFrame] at hnum
  exact Nat.add_left_cancel hnum

/-- R48: a byte from 0x80 up is the byte of an address, namely of the one its frame decodes to. -/
theorem exists_enc_setaddr {y : Byte} (h : 128 ≤ y.toNat) : ∃ l col, enc (.setaddr l col) = y := by
  have hlt := y.isLt
  have hn : (mkFrame false y).toNat = y.toNat := by rw [toNat_mkFrame, Bool.toNat_false, Nat.zero_mul, Nat.zero_add]
  have h8 : ¬ (mkFrame false y).getLsbD 8 = true := by
    rw [bit8_iff, hn]
    omega
  have h7 : (mkFrame false y).getLsbD 7 = true := by
    rw [bit7_iff, hn]
    omega
  exact ⟨_, _, mkFrame_injective (mkFrame_setaddr_of_bit7 h8 h7)⟩

theorem exists_enc_iff (y : Byte) :
    (∃ a, enc a = y) ↔ y = 0x01#8 ∨ y = 0x02#8 ∨ y = 0x0C#8 ∨ y = 0x28#8 ∨ 0x80 ≤ y.toNat := by
  constructor
  · rintro ⟨a, rfl⟩
    cases a with
    | clear | home | dispon | fset => decide
    | setaddr l col =>
      have := toNat_enc_setaddr l col
      exact .inr (.inr (.inr (.inr (by omega))))
  · rintro (rfl | rfl | rfl | rfl | h)
    · exact ⟨.clear, rfl⟩
    · exact ⟨.home, rfl⟩
    · exact ⟨.dispon, rfl⟩
    · exact ⟨.fset, rfl⟩
    · obtain ⟨l, col, hy⟩ := exists_enc_setaddr h
      exact ⟨_, hy⟩

/-- Settles O16: the values by the byte of `SETADDR`; injectivity and the image by the decoder. -/
theorem encodingFunction : Obligations.EncodingFunction :=
  ⟨rfl, rfl, rfl, rfl, fun col => ⟨toNat_enc_setaddr .line1 col, toNat_enc_setaddr .line2 col⟩,
    fun _ _ => enc_injective, exists_enc_iff⟩

end Sys2Proof.CodecBytes
end

section
/-! The codec family (41_codec.md): what a frame ends in on every path, what it leaves unchanged, the delay it records,
and the frame rows as codec operations. -/

namespace Sys2Proof.CodecFrames

open Sys2Proof.Machine Sys2Proof.Safety Sys2Proof.StateRules Sys2Proof.NibbleCycle Sys2Proof.TwoRuns
  Sys2Proof.BusTransmitter Sys2Proof.TransferTrace

/-! ## The RS write -/

theorem testBit_setLine (o : PortWord) (i : Nat) (b : Bool) (k : Nat) :
    (setLine o i b).testBit k = if k = i then b else o.testBit k := by
  have hbit : (1 <<< i).testBit k = decide (k = i) := by
    rw [Nat.one_shiftLeft, Nat.testBit_two_pow, decide_eq_decide]
    exact eq_comm
  cases b <;> by_cases hk : k = i <;> simp [setLine, Nat.testBit_or, Nat.testBit_xor, hbit, hk]

theorem setLine_lt {w i : Nat} {o : PortWord} (ho : o < 2 ^ w) (hi : i < w) (b : Bool) : setLine o i b < 2 ^ w := by
  refine Nat.lt_pow_two_of_testBit _ fun k hk => ?_
  have hne : k ≠ i := by omega
  rw [testBit_setLine, if_neg hne, testBit_ge_width ho hk]

theorem writeRs_out_rsBit (rs : Bool) {s : State} (hrs : s.cfg.rsBit < s.cfg.portWidth) :
    (writeRs rs s).out.testBit s.cfg.rsBit = rs := by
  cases rs with
  | false => simp [writeRs, testBit_wordAndNot, testBit_rsM, hrs]
  | true => simp [writeRs, testBit_wordOr, testBit_rsM, hrs]

/-- R67, R68: the RS write sets the RS line to the frame's level and leaves the others. -/
theorem writeRs_out (rs : Bool) {s : State} (ho : s.out < 2 ^ s.cfg.portWidth) (hrs : s.cfg.rsBit < s.cfg.portWidth) :
    (writeRs rs s).out = setLine s.out s.cfg.rsBit rs := by
  refine Nat.eq_of_testBit_eq fun k => ?_
  rw [testBit_setLine]
  split
  · next hk => exact hk ▸ writeRs_out_rsBit rs hrs
  · next hne =>
    by_cases hk : k < s.cfg.portWidth
    · exact writeRs_out_testBit rs s hk hne
    · rw [testBit_ge_width (writeRs_out_lt rs s) (by omega), testBit_ge_width ho (by omega)]

theorem writeRs_eq_writeOut (rs : Bool) (s : State) : writeRs rs s = writeOut (writeRs rs s).out s := by
  cases rs with
  | false => rfl
  | true => rfl

/-- R96: a write that starts with a driven EN at 0 latches nothing. -/
theorem seeWrite_of_en_low {c : Config} {o d : PortWord} (hen : enBitOf c o = false) (hdrv : OwnedDriven c d) (n : Nat)
    (o' : PortWord) (disp : Display) : seeWrite c n o d o' d disp = disp := by
  have hd := hdrv c.enBit ((Masks.ownedLine_iff c _).mpr (.inr (.inl rfl)))
  have hlatch : latchHappens c n o d o' d = false := by simp [latchHappens, hd, hen]
  obtain ⟨-, -, hnone⟩ := seeWrite_latches c n o d o' d disp
  exact hnone hlatch

/-- From idle, driven lines the RS write is one event that the display does not latch at. -/
theorem writeRs_eq {s : State} (h : IdleOut s.cfg s.out) (hdrv : OwnedDriven s.cfg s.dirOut) (rs : Bool) :
    writeRs rs s = { s with out := setLine s.out s.cfg.rsBit rs, draws := s.draws + 1,
                            trace := s.trace ++ [.outW (setLine s.out s.cfg.rsBit rs)] } := by
  obtain ⟨-, hrs, -⟩ := (configValid_iff s.cfg).mp h.valid
  rw [writeRs_eq_writeOut, writeRs_out rs h.lt hrs, writeOut, seeWrite_of_en_low (enBitOf_idle h) hdrv]

/-! ## The frame -/

/-- R67, R68, R75: from idle, driven lines a frame is the settling delay, the RS write, and the byte at that RS. -/
theorem advance_frameBody {s : State} (h : IdleOut s.cfg s.out) (hdrv : OwnedDriven s.cfg s.dirOut) (rs : Bool)
    (b : Byte) : advance (frameBody rs b s) = frameResult rs b s := by
  have hwrite := writeRs_eq (s := waitFor .settle s) h hdrv rs
  have hidle : IdleOut s.cfg (writeRs rs (waitFor .settle s)).out := writeRs_idleOut rs (s := waitFor .settle s) h
  obtain ⟨hdir, -, -, -, hcfg, -⟩ := writeRs_keeps rs (waitFor .settle s)
  rw [frameBody, byteBody_eq (by simpa [hcfg] using hidle) (by simpa [hcfg, hdir] using hdrv), hwrite]
  simp [advance, frameResult, frameEvents, testBit_setLine, startFrame, bootOrderMet]

/-- What an instruction whose body is a frame does on every path. -/
theorem sendsFrame_of_bodyOf {i : Instr} {rs : Bool} {b : Byte} (hi : i.isTransfer = true)
    (hbody : bodyOf i = frameBody rs b) : SendsFrame i rs b := by
  refine ⟨fun s => exec_uninit hi, fun s hs => ?_⟩
  obtain ⟨hout, hdrv⟩ := readyIdle_idleOut hs
  obtain ⟨-, hfault, hready, -⟩ := hs
  rw [exec_completes hfault (.inr hready), hbody, advance_frameBody hout hdrv]

/-- Settles O24: the transcription, and the frame of the code's byte. -/
theorem sendInstruction : Obligations.SendInstruction := fun code =>
  ⟨Transcription.decodeEncodeRoundTrip (.sendInstruction code), sendsFrame_of_bodyOf rfl rfl⟩

/-- Settles O26: the transcription, and the frame of the character for both of its instructions. -/
theorem sendCharacter : Obligations.SendCharacter := fun c =>
  ⟨Transcription.decodeEncodeRoundTrip (.sendCharacter c), sendsFrame_of_bodyOf rfl rfl,
    sendsFrame_of_bodyOf rfl rfl⟩

theorem setAddress_sendsFrame (l : Line) (col : BitVec 6) :
    SendsFrame (.setAddress l col) false (BitVec.ofNat 8 (128 + (lineBit l).toNat * 64 + col.toNat)) :=
  CodecBytes.enc_setaddr_eq_ofNat l col ▸ sendsFrame_of_bodyOf rfl rfl

/-- Settles O25: four rows with fixed bytes, and the address row of each line. -/
theorem instructionRows : Obligations.InstructionRows :=
  ⟨sendsFrame_of_bodyOf rfl rfl, sendsFrame_of_bodyOf rfl rfl, sendsFrame_of_bodyOf rfl rfl,
    sendsFrame_of_bodyOf rfl rfl, fun col => ⟨setAddress_sendsFrame .line1 col, setAddress_sendsFrame .line2 col⟩⟩

/-! ## What a frame leaves unchanged -/

theorem exists_bodyOf_eq_frameBody {i : Instr} {f : Frame} (h : frameOf i = some f) :
    ∃ rs b, f = mkFrame rs b ∧ bodyOf i = frameBody rs b := by
  cases i <;> cases h <;> exact ⟨_, _, rfl, rfl⟩

theorem mkFrame_getLsbD_rs (rs : Bool) (b : Byte) : (mkFrame rs b).getLsbD 8 = rs := by
  rw [mkFrame, BitVec.getLsbD_append]
  cases rs <;> rfl

/-- R76: the byte keeps the RS level that the frame's RS write sets. -/
theorem frameBody_out_rsBit (rs : Bool) (b : Byte) {s : State} (hc : configValid s.cfg = true) :
    (frameBody rs b s).out.testBit s.cfg.rsBit = rs := by
  obtain ⟨-, hrs, -⟩ := (configValid_iff s.cfg).mp hc
  obtain ⟨-, -, -, -, hcfg, -⟩ := writeRs_keeps rs (waitFor .settle s)
  have hbyte := byteBody_out_rsBit b (s := startFrame (writeRs rs (waitFor .settle s)))
  rw [startFrame_cfg, hcfg] at hbyte
  exact (hbyte hc).trans (writeRs_out_rsBit rs (s := waitFor .settle s) hrs)

/-- Settles O32: the RS bit by the frame's body; the rest is what every instruction but PORT_INIT keeps. -/
theorem codecFrame : Obligations.CodecFrame := by
  intro s t i f hf hc hr he
  have hne : i ≠ .portInit := by rintro rfl; cases hf
  obtain ⟨hkept, -, -, hlaunch⟩ := StateFrame.onlyPortInitSetsDirection s t i he
  obtain ⟨hdir, hready⟩ := hkept hne
  have hbits := StateFrame.nonOwnedBitsKept s t i hc (fun hp => absurd hp hne) he
  refine ⟨?_, fun k hk ho => (hbits k hk ho).1, hdir, hready.trans hr, exec_fault_of_ready he hr, hlaunch⟩
  obtain ⟨-, rfl⟩ := exec_next_of_ready hr he
  obtain ⟨rs, b, rfl, hbody⟩ := exists_bodyOf_eq_frameBody hf
  rw [hbody, mkFrame_getLsbD_rs]
  exact frameBody_out_rsBit rs b hc

/-! ## The delay a command records -/

theorem traceDelay_append (c : Config) (es fs : List Event) :
    traceDelay c (es ++ fs) = traceDelay c es + traceDelay c fs := by
  simp [traceDelay]

theorem traceDelay_waitE_cons (c : Config) (k : WaitKind) (es : List Event) :
    traceDelay c (.waitE k :: es) = waitDuration c k + traceDelay c es := by
  simp [traceDelay]

/-- R82: register writes take no recorded time. -/
theorem traceDelay_map_outW (c : Config) (a : List PortWord) : traceDelay c (a.map .outW) = 0 := by
  simp [traceDelay, Function.comp_def]

/-- Settles O38: the delays among the events that each instruction appends. -/
theorem recordedDelays : Obligations.RecordedDelays := by
  intro s t i he hnone
  obtain ⟨es, htrace, -, hes⟩ := traceShape s t i he hnone
  rw [htrace, traceDelay_append]
  congr 1
  cases i with
  | wait k =>
    obtain rfl := hes
    exact traceDelay_waitE_cons s.cfg k []
  | portInit =>
    obtain ⟨d, o, rfl⟩ := hes
    rfl
  | sendNibble _ | sendByte _ =>
    obtain ⟨a, -, rfl⟩ := hes
    exact traceDelay_map_outW s.cfg a
  | clearDisplay | returnHome | displayOn | functionSet | setAddress _ _ | sendInstruction _ | character _
  | sendCharacter _ =>
    obtain ⟨a, -, rfl⟩ := hes
    rw [traceDelay_waitE_cons, traceDelay_map_outW]
    rfl

/-! ## The frame rows -/

/-- A transfer's name matters to its fault entry alone. -/
theorem transfer_eq_of_ready {i j : Instr} {body : State → State} {s : State} (hr : s.ready = true) :
    transfer i body s = transfer j body s := by
  simp only [transfer, hr, if_true]

/-- Settles O29: each row has the body of its codec operation. -/
theorem rowsAreCodecOperations : Obligations.RowsAreCodecOperations := fun _ hr =>
  ⟨transfer_eq_of_ready hr, transfer_eq_of_ready hr, transfer_eq_of_ready hr, transfer_eq_of_ready hr,
    fun _ _ => transfer_eq_of_ready hr, fun _ => transfer_eq_of_ready hr⟩

end Sys2Proof.CodecFrames
end

section
/-! The port control family (42_port_control.md): what PORT_INIT leaves of the registers, the draw count and the
display; WAIT; and that no instruction reads a duration or the direction polarity (R82, 10_state.md R21). -/

namespace Sys2Proof.PortControl

open Sys2Proof.Machine Sys2Proof.Safety Sys2Proof.StateRules Sys2Proof.TwoRuns

/-! ## PORT_INIT -/

/-- R80: the owned lines, under `WHOLE_PORT` all lines, become outputs and are cleared; the others are kept. -/
theorem portInitBody_testBit {s : State} (hc : configValid s.cfg = true) {i : Nat} (hi : i < s.cfg.portWidth) :
    (portInitBody s).dirOut.testBit i
        = (s.dirOut.testBit i || ownedLine s.cfg i || decide (s.cfg.portInitScope = .wholePort)) ∧
      (portInitBody s).out.testBit i
        = (s.out.testBit i && !(ownedLine s.cfg i || decide (s.cfg.portInitScope = .wholePort))) := by
  cases hs : s.cfg.portInitScope with
  | lcdOnly =>
    obtain ⟨hout, hdir⟩ := portInitBody_lcdOnly hs
    simp [hout, hdir, testBit_wordAndNot, testBit_wordOr, Masks.testBit_lcdM_eq_ownedLine hc, hi]
  | wholePort =>
    obtain ⟨hout, hdir⟩ := portInitBody_wholePort hs
    simp [hout, hdir, testBit_wordOr, testBit_allOnes, hi]

theorem portInitWrites_lcdOnly {s : State} (hs : s.cfg.portInitScope = .lcdOnly) :
    portInitWrites s = pinClr (lcdM s.cfg) (dirOutput (lcdM s.cfg) s) := by
  simp only [portInitWrites, hs]

theorem portInitWrites_wholePort {s : State} (hs : s.cfg.portInitScope = .wholePort) :
    portInitWrites s = writeOut 0 (dirOutput (allOnes s.cfg.portWidth) s) := by
  simp only [portInitWrites, hs]

/-- Both scopes make a direction write and then an output write, which differ in the values alone. -/
theorem portInitWrites_eq_writeOut_writeDir (s : State) : ∃ o d, portInitWrites s = writeOut o (writeDir d s) := by
  cases hs : s.cfg.portInitScope with
  | lcdOnly => exact ⟨_, _, portInitWrites_lcdOnly hs⟩
  | wholePort => exact ⟨_, _, portInitWrites_wholePort hs⟩

theorem portInitBody_draws (s : State) : (portInitBody s).draws = s.draws + 2 := by
  obtain ⟨o, d, hw⟩ := portInitWrites_eq_writeOut_writeDir s
  exact congrArg State.draws hw

/-- A register write starts no frame at the display. -/
theorem seeWrite_frameSeen (c : Config) (n : Nat) (out dir out' dir' : PortWord) (d : Display) :
    (seeWrite c n out dir out' dir' d).frameSeen = d.frameSeen := by
  obtain ⟨-, hseen, -⟩ := seeWrite_latches c n out dir out' dir' d
  exact hseen

/-- R80: PORT_INIT sends no frame, so the run's first frame is still to come if it was. -/
theorem portInitBody_frameSeen (s : State) : (portInitBody s).display.frameSeen = s.display.frameSeen := by
  obtain ⟨o, d, hw⟩ := portInitWrites_eq_writeOut_writeDir s
  calc (portInitBody s).display.frameSeen
      = (portInitWrites s).display.frameSeen := rfl
    _ = (writeDir d s).display.frameSeen := by rw [hw, writeOut_display, seeWrite_frameSeen]
    _ = s.display.frameSeen := by rw [writeDir_display, seeWrite_frameSeen]

/-- Settles O27: PORT_INIT has no step-time fault, and its body's fields are said one by one. -/
theorem portInit : Obligations.PortInit := by
  intro s hc hf
  obtain ⟨hready, hfault, hpc, hcfg, hprog, hcallers⟩ := portInitBody_keeps s
  exact ⟨advance (portInitBody s), always_none hf, fun _ hi => portInitBody_testBit hc hi, portInitBody_inRange s,
    portInitBody_trace s, hready, hfault.trans hf, congrArg (· + 1) hpc, ⟨hcfg, hprog, hcallers⟩,
    portInitBody_draws s, rfl, portInitBody_frameSeen s⟩

/-! ## Durations and polarity -/

/-- `s` under other durations and another direction polarity. -/
def retimed (a b c : Nat) (p : Bool) (s : State) : State :=
  { s with cfg := { s.cfg with tSettle := a, tStabPre := b, tStabPost := c, dirOutputValue := p } }

section

variable (a b c : Nat) (p : Bool)

theorem writeRs_retimed (rs : Bool) (s : State) :
    writeRs rs (retimed a b c p s) = retimed a b c p (writeRs rs s) := by
  cases rs with
  | false => rfl
  | true => rfl

theorem portInitWrites_retimed (s : State) :
    portInitWrites (retimed a b c p s) = retimed a b c p (portInitWrites s) := by
  cases hs : s.cfg.portInitScope with
  | lcdOnly =>
    rw [portInitWrites_lcdOnly hs, portInitWrites_lcdOnly (s := retimed a b c p s) hs]
    rfl
  | wholePort =>
    rw [portInitWrites_wholePort hs, portInitWrites_wholePort (s := retimed a b c p s) hs]
    rfl

theorem portInitBody_retimed (s : State) :
    portInitBody (retimed a b c p s) = retimed a b c p (portInitBody s) := by
  unfold portInitBody
  rw [portInitWrites_retimed]
  rfl

/-- R82, R21: no operation reads a duration or the polarity, so a change of them commutes with each. -/
theorem retimed_respectedByOps : RespectedByOps (fun s u => u = retimed a b c p s) where
  fault := fun hu => hu ▸ rfl
  ready := fun hu => hu ▸ rfl
  nibbleBody := fun _ _ _ hu => hu ▸ rfl
  writeRs := fun rs s _ hu => hu ▸ writeRs_retimed a b c p rs s
  waitFor := fun _ _ _ hu => hu ▸ rfl
  startFrame := fun hu => hu ▸ rfl
  portInitBody := fun hu => hu ▸ portInitBody_retimed a b c p _
  advance := fun hu => hu ▸ rfl
  raiseUninit := fun _ _ _ hu => hu ▸ rfl

end

/-- Settles O43: every operation commutes with the change of parameters, so `exec` does. -/
theorem durationsAndPolarityUnread : Obligations.DurationsAndPolarityUnread := by
  intro s i a b c p t he
  obtain ⟨_, hexec, rfl⟩ := (retimed_respectedByOps a b c p).exec rfl he
  exact hexec

/-! ## WAIT -/

/-- R100: a settling delay ends the busy time where it suffices; the other delays change nothing. -/
theorem seeWait_eq (c : Config) (k : WaitKind) (d : Display) :
    seeWait c k d = if k = .settle ∧ c.settleSufficient = true then { d with busy := false } else d := by
  cases k with
  | settle => simp [seeWait]
  | stabPre => rfl
  | stabPost => rfl

/-- Settles O28: WAIT has no step-time fault, and its event ends the busy time as R100 says. -/
theorem waitCommand : Obligations.WaitCommand := by
  intro s k hf
  calc exec (.wait k) s
      = .next (advance (waitFor k s)) := always_none hf
    _ = .next (waitResult k s) := by simp only [waitFor, seeWait_eq, advance, waitResult]

end Sys2Proof.PortControl
end

section
/-! What refuses a launch or a list (60_exceptions.md R86, R87), the fault entry of the transfers (R88), and the faulted
state (R89). -/

namespace Sys2Proof.Exceptions

open Sys2Proof.Machine Sys2Proof.Safety

/-! ## Refusals at launch and at transcription -/

theorem launchRefusal_badConfig {s : State} (h : configValid s.cfg = false) :
    launchRefusal s = some (.refuseConfig s.cfg) := by
  simp [launchRefusal, h]

theorem launchRefusal_concurrent {s : State} (hc : configValid s.cfg = true) (h : 1 < s.callers) :
    launchRefusal s = some (.refuseConcurrent s.launch) := by
  simp [launchRefusal, hc, h]

theorem step_of_fetch_error {s : State} {r : Refusal} (hf : s.fault = none) (h : fetch s = .error r) :
    step s = .refused r := by
  simp [step, hf, h]

/-- The launch is checked before anything of the list. -/
theorem step_of_launchRefusal {s : State} {r : Refusal} (hf : s.fault = none) (h : launchRefusal s = some r) :
    step s = .refused r :=
  step_of_fetch_error hf (by simp [fetch, h])

/-- Settles O5: with no fault marked, the step answers what refuses the launch. -/
theorem launchRefused : Obligations.LaunchRefused := fun _ hf =>
  ⟨fun hbad => step_of_launchRefusal hf (launchRefusal_badConfig hbad),
    fun hc hcallers => step_of_launchRefusal hf (launchRefusal_concurrent hc hcallers)⟩

/-- A command that decodes hands on the refusal of the list after it. -/
theorem transcribe_cons_of_error {c : SourceCommand} {i : Instr} {cs : List SourceCommand} {r : Refusal}
    (hc : decode c.command = .ok i) (hcs : transcribe cs = .error r) : transcribe (c :: cs) = .error r := by
  simp [transcribe, hc, hcs]

theorem transcribe_cons_of_bad {c : SourceCommand} {e : DecodeError} (cs : List SourceCommand)
    (hc : decode c.command = .error e) : transcribe (c :: cs) = .error (transcribeRefusal c.line e) := by
  simp [transcribe, hc]

/-- R87: the commands before the first bad one decode, and what follows it is not looked at. -/
theorem transcribe_first_bad {good : List SourceCommand} {c : SourceCommand} {e : DecodeError}
    (hgood : ∀ g ∈ good, g.command.wellFormed = true) (hc : decode c.command = .error e)
    (rest : List SourceCommand) :
    transcribe (good ++ c :: rest) = .error (transcribeRefusal c.line e) := by
  induction good with
  | nil => exact transcribe_cons_of_bad rest hc
  | cons g gs ih =>
    obtain ⟨hg, hgs⟩ := List.forall_mem_cons.mp hgood
    obtain ⟨i, hi⟩ := (Transcription.transcriptionAcceptsWellFormed g.command).mpr hg
    exact transcribe_cons_of_error hi (ih hgs)

/-- Settles O6: the refusal of the first bad command, for either reason. -/
theorem transcriptionRefusesFirstBad : Obligations.TranscriptionRefusesFirstBad := by
  intro good c rest e hgood hc
  rw [transcribe_first_bad hgood hc rest]
  cases e with
  | instrCode => rfl
  | range => rfl

/-! ## Faults -/

/-- R89: no instruction runs from a faulted state, whether it is a transfer or not. -/
theorem exec_of_fault {s : State} {f : Fault} (h : s.fault = some f) (i : Instr) : exec i s = .fault f := by
  cases hi : i.isTransfer with
  | true => exact (exec_transfer i hi s).trans (unlessFaulted_some h _)
  | false => exact (exec_always i hi s).trans (unlessFaulted_some h _)

theorem step_of_fault {s : State} {f : Fault} (h : s.fault = some f) : step s = .fault f := by
  simp [step, h]

/-- Settles O9: the fault mark stops `step` and every `exec`, and a good end has none. -/
theorem faultedStateHasNoStep : Obligations.FaultedStateHasNoStep := by
  refine fun s f h => ⟨step_of_fault h, exec_of_fault h, ?_⟩
  rintro ⟨hnone, -⟩
  cases h.symm.trans hnone

/-- Settles O10: a transfer that is not `ready` runs no body. -/
theorem transfersFaultBeforeInit : Obligations.TransfersFaultBeforeInit := fun _ _ hi hf hr =>
  BusTransmitter.exec_uninit hi hf hr

end Sys2Proof.Exceptions
end

section
/-! The frames that the display receives (60_exceptions.md R96–R101): what a transfer latches, the frame that a
settled display in phase makes of it, and the frame's meaning. -/

namespace Sys2Proof.ReceivedFrames

open Sys2Proof.Machine Sys2Proof.Safety Sys2Proof.NibbleCycle Sys2Proof.BusTransmitter Sys2Proof.CodecFrames

/-! ## What a transfer latches -/

/-- R46: a frame fixes its RS level and its byte. -/
theorem mkFrame_inj {rs rs' : Bool} {b b' : Byte} (h : mkFrame rs b = mkFrame rs' b') : rs = rs' ∧ b = b' := by
  have hrs : rs = rs' := by rw [← mkFrame_getLsbD_rs rs b, h, mkFrame_getLsbD_rs]
  subst hrs
  exact ⟨rfl, CodecBytes.mkFrame_injective h⟩

theorem isTransfer_of_frameOf {i : Instr} {f : Frame} (h : frameOf i = some f) : i.isTransfer = true := by
  cases i <;> cases h <;> rfl

/-- R67, R68: every instruction with a frame sends it from a ready idle state. -/
theorem exec_of_frameOf {i : Instr} {rs : Bool} {b : Byte} (hi : frameOf i = some (mkFrame rs b)) {s : State}
    (hs : ReadyIdle s) : exec i s = .next (frameResult rs b s) := by
  obtain ⟨rs', b', hframe, hbody⟩ := exists_bodyOf_eq_frameBody hi
  obtain ⟨rfl, rfl⟩ := mkFrame_inj hframe
  obtain ⟨-, hsends⟩ := sendsFrame_of_bodyOf (isTransfer_of_frameOf hi) hbody
  exact hsends s hs

@[simp] theorem seeWait_latches (c : Config) (k : WaitKind) (d : Display) : (seeWait c k d).latches = d.latches := by
  rw [PortControl.seeWait_eq]
  split <;> rfl

@[simp] theorem seeFrameStart_latches (p : Bool) (d : Display) : (seeFrameStart p d).latches = d.latches := by
  unfold seeFrameStart
  split <;> rfl

theorem byteResult_latches (b : Byte) (s : State) :
    (byteResult b s).display.latches = s.display.latches ++
      [⟨s.out.testBit s.cfg.rsBit, hiNibble b⟩, ⟨s.out.testBit s.cfg.rsBit, loNibble b⟩] := by
  simp [byteResult, latchNibble_latches, hiNibble_eq, loNibble_eq]

theorem frameResult_latches (rs : Bool) (b : Byte) (s : State) :
    (frameResult rs b s).display.latches = s.display.latches ++ [⟨rs, hiNibble b⟩, ⟨rs, loNibble b⟩] := by
  simp [frameResult, latchNibble_latches, hiNibble_eq, loNibble_eq]

/-- Settles O44: every latch of the transfers' results is recorded, in whatever phase the display is. -/
theorem latchedNibbles : Obligations.LatchedNibbles := fun s hs =>
  ⟨fun v => ⟨_, exec_sendNibble_of_readyIdle hs v, latchNibble_latches _ _ _⟩,
    fun b => ⟨_, exec_sendByte_of_readyIdle hs b, byteResult_latches b s⟩,
    fun _ rs b hi => ⟨_, exec_of_frameOf hi hs, frameResult_latches rs b s⟩⟩

/-! ## The frame received -/

/-- The display at a frame's first latch, where the frame is in phase and settled. -/
def settledStart (d : Display) : Display :=
  { d with busy := false, phase := .high, frameSeen := true }

/-- The display when it has received the frame `{rs, b}` settled, before the frame's effect. -/
def settledReceipt (rs : Bool) (b : Byte) (d : Display) : Display :=
  { d with latches := d.latches ++ [⟨rs, hiNibble b⟩, ⟨rs, loNibble b⟩],
           received := d.received ++ [⟨mkFrame rs b, true⟩], busy := true, phase := .high, frameSeen := true }

/-- R97, R111: where the display is in phase, the settling delay and the start of a frame leave it awaiting a high
nibble, and not busy. -/
theorem seeFrameStart_seeWait_of_inPhase {s : State} (hp : InPhase s) (hset : s.cfg.settleSufficient = true) :
    seeFrameStart (s.cfg.displayInPhase && bootOrderMet s) (seeWait s.cfg .settle s.display)
      = settledStart s.display := by
  have hwait : seeWait s.cfg .settle s.display = { s.display with busy := false } := by simp [seeWait, hset]
  rw [hwait]
  rcases hp with ⟨hseen, hhigh⟩ | ⟨hseen, hprem⟩
  · simp [seeFrameStart, hseen, hhigh, settledStart]
  · simp only [displayPremises, Bool.and_eq_true] at hprem
    obtain ⟨⟨⟨hphase, -⟩, -⟩, hboot⟩ := hprem
    simp [seeFrameStart, hseen, hphase, hboot, settledStart]

/-- R97, R99: two nibbles under one RS level, latched by a settled display in phase, are a frame that takes effect. -/
theorem latchNibble_pair_of_settled (m n : Nat) (rs : Bool) (b : Byte) (d : Display) :
    latchNibble n ⟨rs, loNibble b⟩ (latchNibble m ⟨rs, hiNibble b⟩ (settledStart d))
      = frameEffect n (mkFrame rs b) (settledReceipt rs b d) := by
  rw [latchNibble_high (d := settledStart d) rfl, latchNibble_low (e := false) rfl]
  simp [receiveFrame, settledReceipt, settledStart, hiNibble_append_loNibble]

theorem frameResult_display_of_inPhase {s : State} (hp : InPhase s) (hset : s.cfg.settleSufficient = true)
    (rs : Bool) (b : Byte) :
    (frameResult rs b s).display = frameEffect (s.draws + 7) (mkFrame rs b) (settledReceipt rs b s.display) := by
  rw [frameResult, ← hiNibble_eq, ← loNibble_eq, seeFrameStart_seeWait_of_inPhase hp hset,
    latchNibble_pair_of_settled]

/-- Settles O45: the receipt records the frame, and the frame's effect leaves the record alone. -/
theorem sentFrameIsReceived : Obligations.SentFrameIsReceived := by
  intro s i f hs hp hset hf
  obtain ⟨rs, b, rfl, -⟩ := exists_bodyOf_eq_frameBody hf
  obtain ⟨hrec, -, hphase, hbusy, hseen⟩ :=
    frameEffect_record (s.draws + 7) (mkFrame rs b) (settledReceipt rs b s.display)
  rw [← frameResult_display_of_inPhase hp hset] at hrec hphase hbusy hseen
  exact ⟨_, exec_of_frameOf hf hs, hrec, hphase, hbusy, hseen⟩

/-! ## The meanings -/

theorem frameEffect_clear (n : Nat) (d : Display) :
    frameEffect n (mkFrame false (enc .clear)) d = clearEffect n d := rfl

theorem frameEffect_dispon (n : Nat) (d : Display) :
    frameEffect n (mkFrame false (enc .dispon)) d = { d with on := true } := rfl

theorem frameEffect_fset (n : Nat) (d : Display) :
    frameEffect n (mkFrame false (enc .fset)) d = { d with functionSet := true } := rfl

theorem frameEffect_setaddr (n : Nat) (l : Line) (col : BitVec 6) (d : Display) :
    frameEffect n (mkFrame false (enc (.setaddr l col))) d = setAddressEffect n l col d := by
  simp only [frameEffect, Encoding.decodeFrame_mkFrame_setaddr]

theorem frameEffect_character (n : Nat) (c : Byte) (d : Display) :
    frameEffect n (mkFrame true c) d = characterEffect n c d := by
  simp only [frameEffect, Encoding.decodeFrame_mkFrame_true]

/-- Settles O47: the four effects on the display that has received the frame. -/
theorem meaningsOfReceivedFrames : Obligations.MeaningsOfReceivedFrames := by
  intro s hs hp hset
  refine ⟨⟨_, exec_of_frameOf rfl hs, ?_⟩, ⟨_, exec_of_frameOf rfl hs, ?_⟩,
    ⟨_, exec_of_frameOf rfl hs, ?_⟩, fun c => ⟨_, exec_of_frameOf rfl hs, ?_⟩⟩
  · rw [frameResult_display_of_inPhase hp hset, frameEffect_clear, clearEffect]
  · rw [frameResult_display_of_inPhase hp hset, frameEffect_dispon]
  · rw [frameResult_display_of_inPhase hp hset, frameEffect_fset]
  · rw [frameResult_display_of_inPhase hp hset, frameEffect_character, characterEffect, settledReceipt]

/-! ## Line addressing -/

section

variable (n : Nat) (col : BitVec 6) (d : Display)

/-- R101: a line-1 address sets the line-1 history; R99: with column 0 it sets the pointer. -/
theorem setAddressEffect_line1 :
    (setAddressEffect n .line1 col d).line1Addressed = true ∧
      (col = 0#6 → (setAddressEffect n .line1 col d).addr = ⟨.line1, 0#6⟩) := by
  refine ⟨rfl, ?_⟩
  rintro rfl
  rfl

theorem setAddressEffect_line2_history :
    (setAddressEffect n .line2 col d).line1Addressed = d.line1Addressed := rfl

/-- R101: a line-2 address with column 0 is accepted after a line-1 address, else by a draw. -/
theorem setAddressEffect_line2_start :
    (setAddressEffect n .line2 0#6 d).addr
      = if d.line1Addressed || Config.freeAccept n then ⟨.line2, 0#6⟩ else d.addr := rfl

end

/-- Settles O48: the effect of each line's address on the display that has received it. -/
theorem lineAddressing : Obligations.LineAddressing := by
  intro s col hs hp hset
  refine ⟨⟨_, exec_of_frameOf rfl hs, ?_⟩, _, exec_of_frameOf rfl hs, ?_⟩
  · rw [frameResult_display_of_inPhase hp hset, frameEffect_setaddr]
    exact setAddressEffect_line1 _ _ _
  · rw [frameResult_display_of_inPhase hp hset, frameEffect_setaddr]
    refine ⟨setAddressEffect_line2_history _ _ _, ?_, ?_⟩
    · rintro rfl hone
      simp [setAddressEffect_line2_start, settledReceipt, hone]
    · rintro rfl -
      rw [setAddressEffect_line2_start]
      split
      · exact .inl rfl
      · exact .inr rfl

end Sys2Proof.ReceivedFrames
end

section
/-! PORT_INIT's strobe (60_exceptions.md R96, 70_reset_and_hazards.md R118): what the display latches at its direction
write and at its clearing write. -/

namespace Sys2Proof.PortInitStrobe

open Sys2Proof.Machine Sys2Proof.Safety Sys2Proof.StateRules Sys2Proof.NibbleCycle

/-! ## The lines a write latches -/

/-- R96: a line that a write leaves driven and at 0 is latched at 0, unless the write changes it. -/
theorem sampleLine_of_unchanged_low {n : Nat} {out dir out' : PortWord} {i : Nat} (hdrv : dir.testBit i = true)
    (hold : out.testBit i = false) (hnew : out'.testBit i = false) : sampleLine n out dir out' dir i = false := by
  simp [sampleLine, lineLevel, hdrv, hold, hnew]

/-- R19: bit `k` of four levels is level `k`. -/
theorem nibbleOfBits_getLsbD :
    ∀ (b0 b1 b2 b3 : Bool) (k : Fin 4), (nibbleOfBits b0 b1 b2 b3).getLsbD k = ![b0, b1, b2, b3] k := by
  decide

theorem sampleLatch_nib_getLsbD (c : Config) (n : Nat) (out dir out' dir' : PortWord) (k : Fin 4) :
    (sampleLatch c n out dir out' dir').nib.getLsbD k = sampleLine n out dir out' dir' (c.dataShift + k) := by
  rw [sampleLatch, nibbleOfBits_getLsbD]
  match k with
  | 0 | 1 | 2 | 3 => rfl

/-! ## The two writes -/

/-- R96: a direction write moves no level of `OUT`, so where EN stays driven it makes no falling edge. -/
theorem latchHappens_direction {c : Config} {dir dir' : PortWord} (hold : dir.testBit c.enBit = true)
    (hnew : dir'.testBit c.enBit = true) (n : Nat) (out : PortWord) : latchHappens c n out dir out dir' = false := by
  simp [latchHappens, hold, hnew]

/-- R96: a write that leaves a driven EN at 0 makes a falling edge exactly where EN was 1. -/
theorem latchHappens_clearing {c : Config} {dir out' : PortWord} (hdrv : dir.testBit c.enBit = true)
    (hlow : out'.testBit c.enBit = false) (n : Nat) (out : PortWord) :
    latchHappens c n out dir out' dir = out.testBit c.enBit := by
  simp [latchHappens, enBitOf, hdrv, hlow]

theorem seeWrite_direction_latches {c : Config} {dir' : PortWord} (hnew : dir'.testBit c.enBit = true) (n : Nat)
    (out dir : PortWord) (d : Display) :
    ∃ pre : List Latch, pre.length ≤ 1 ∧ (dir.testBit c.enBit = true → pre = []) ∧
      (seeWrite c n out dir out dir' d).latches = d.latches ++ pre := by
  obtain ⟨⟨pre, hlen, hpre⟩, -, hnone⟩ := seeWrite_latches c n out dir out dir' d
  refine ⟨pre, hlen, fun hold => ?_, hpre⟩
  rw [hnone (latchHappens_direction hold hnew n out)] at hpre
  exact List.self_eq_append_right.mp hpre

/-- PORT_INIT's two writes, from the values that they leave in the registers. -/
theorem portInitBody_latches (s : State) :
    (portInitBody s).display.latches
      = (seeWrite s.cfg (s.draws + 1) s.out (portInitBody s).dirOut (portInitBody s).out (portInitBody s).dirOut
          (seeWrite s.cfg s.draws s.out s.dirOut s.out (portInitBody s).dirOut s.display)).latches := by
  obtain ⟨o, d, hw⟩ := PortControl.portInitWrites_eq_writeOut_writeDir s
  simp [portInitBody, hw]

/-- Settles O49: the direction write moves no level, and the clearing write leaves all six lines driven and at 0. -/
theorem portInitStrobe : Obligations.PortInitStrobe := by
  intro s hc hf
  have howned (k : Nat) := portInitBody_owned (s := s) hc (k := k)
  obtain ⟨henLow, henDrv⟩ := howned s.cfg.enBit ((Masks.ownedLine_iff _ _).mpr (.inr (.inl rfl)))
  obtain ⟨pre, hlen, hdriven, hpre⟩ := seeWrite_direction_latches henDrv s.draws s.out s.dirOut s.display
  have hfalls := latchHappens_clearing henDrv henLow (s.draws + 1) s.out
  have hlow (k : Nat) (hk : ownedLine s.cfg k = true) (hold : s.out.testBit k = false) :=
    sampleLine_of_unchanged_low (n := s.draws + 1) (howned k hk).2 hold (howned k hk).1
  refine ⟨advance (portInitBody s), pre, always_none hf, hlen, hdriven, fun hen => ?_, fun hen => ?_⟩
  · rw [advance_display, portInitBody_latches, seeWrite, hfalls, hen]
    exact hpre
  · refine ⟨sampleLatch s.cfg (s.draws + 1) s.out (portInitBody s).dirOut (portInitBody s).out
      (portInitBody s).dirOut, ?_, fun hrs => ?_, fun k hk hdata => ?_⟩
    · rw [advance_display, portInitBody_latches, seeWrite, hfalls, hen, if_pos rfl, latchNibble_latches, hpre]
    · exact hlow _ ((Masks.ownedLine_iff _ _).mpr (.inl rfl)) hrs
    · rw [sampleLatch_nib_getLsbD _ _ _ _ _ _ ⟨k, hk⟩]
      exact hlow _ ((Masks.ownedLine_iff _ _).mpr (by omega)) hdata

end Sys2Proof.PortInitStrobe
end

section
/-! Power-up, the ends of a run, and how a command ends (70_reset_and_hazards.md R105, R106, R110). -/

namespace Sys2Proof.RunEnds

open Sys2Proof.Machine Sys2Proof.Safety

/-- Settles O1: the power-up state is given field by field, and reset is the power-up state of one launch. -/
theorem powerUpState : Obligations.PowerUpState :=
  ⟨fun _ _ _ _ => ⟨rfl, rfl, rfl, rfl, rfl, rfl⟩, rfl, rfl, rfl, rfl⟩

/-! ## Runs without a step -/

theorem fetch_of_transcribe_error {s : State} {r : Refusal} (hl : launchRefusal s = none)
    (ht : transcribe s.program = .error r) : fetch s = .error r := by
  simp [fetch, hl, ht]

/-- R105: past the last command of a launched list there is nothing to fetch. -/
theorem fetch_of_no_command {s : State} {is : List Instr} (h : Launched s is) (hpc : is[s.pc]? = none) :
    fetch s = .error (.endOfRun s.pc) := by
  obtain ⟨hl, ht⟩ := h
  simp only [fetch, hl, ht, hpc]

/-- Settles O7: the list is transcribed as a whole before the command at `pc` is looked up. -/
theorem refusedTranscriptionHasNoStep : Obligations.RefusedTranscriptionHasNoStep :=
  fun _ _ hf hl ht => Exceptions.step_of_fetch_error hf (fetch_of_transcribe_error hl ht)

/-- Settles O8: the transcribed list is as long as the written one, so it holds no instruction at its end. -/
theorem endOfRunHasNoStep : Obligations.EndOfRunHasNoStep := by
  rintro s is ⟨hl, ht⟩ ⟨hf, hend⟩
  have hlen : is.length ≤ s.pc := by rw [transcribe_length ht, hend]
  exact Exceptions.step_of_fetch_error hf (fetch_of_no_command ⟨hl, ht⟩ (List.getElem?_eq_none hlen))

/-! ## A command that starts -/

/-- R110: an instruction either runs to its end or is a transfer that faults at once. -/
theorem exec_completes_or_faults (i : Instr) {s : State} (hf : s.fault = none) :
    exec i s = .next (advance (bodyOf i s)) ∨
      i.isTransfer = true ∧ s.ready = false ∧ exec i s = .next (uninitResult i s) := by
  cases hi : i.isTransfer with
  | false => exact .inl (TwoRuns.exec_completes hf (.inl hi))
  | true =>
    cases hr : s.ready with
    | true => exact .inl (TwoRuns.exec_completes hf (.inr hr))
    | false => exact .inr ⟨rfl, rfl, BusTransmitter.exec_uninit hi hf hr⟩

theorem exec_sameLaunch {i : Instr} {s t : State} (he : exec i s = .next t) : SameLaunch s t := by
  obtain ⟨-, -, -, hlaunch⟩ := StateFrame.onlyPortInitSetsDirection s t i he
  exact hlaunch

/-- Settles O11: inside the list the step is `exec` of the transcribed instruction at `pc`. -/
theorem everyCommandCompletesOrFaults : Obligations.EveryCommandCompletesOrFaults := by
  rintro s is hf ⟨hl, ht⟩ hpc
  obtain ⟨i, hi⟩ : ∃ i, is[s.pc]? = some i := ⟨_, List.getElem?_eq_getElem (transcribe_length ht ▸ hpc)⟩
  rw [step_of_fetch hf (fetch_of hl ht hi)]
  obtain he | ⟨htr, hr, he⟩ := exec_completes_or_faults i hf
  · obtain ⟨hfault, hcount, -⟩ := StateRules.bodyOf_fault_pc_program i s
    exact ⟨_, he, exec_sameLaunch he, .inl ⟨hfault.trans hf, congrArg (· + 1) hcount⟩⟩
  · exact ⟨_, he, exec_sameLaunch he, .inr ⟨i, hi, htr, hr, rfl⟩⟩

end Sys2Proof.RunEnds
end

section
/-! The pairing phase once the run's first frame has been sent (70_reset_and_hazards.md R109, R112): a frame after an odd
nibble, PORT_INIT issued again, and the parity that each instruction keeps or turns. -/

namespace Sys2Proof.PairingPhase

open Sys2Proof.Machine Sys2Proof.Safety Sys2Proof.NibbleCycle Sys2Proof.BusTransmitter Sys2Proof.ReceivedFrames

/-- The idle invariant, `ready` and the absence of a fault mark are kept together by every instruction. -/
theorem exec_readyIdle {i : Instr} {s t : State} (hs : ReadyIdle s) (he : exec i s = .next t) : ReadyIdle t := by
  obtain ⟨hc, -, hr, hlt, hidle⟩ := hs
  obtain ⟨-, hready, -⟩ := StateFrame.onlyPortInitSetsDirection s t i he
  obtain ⟨hct, hltt, hidlet⟩ := IdleInvariant.idleInv_keptByOps.exec
    (fun _ => IdleInvariant.portInitBody_idleInv s hc) ⟨hc, hlt, fun _ => hidle⟩ he
  exact ⟨hct, exec_fault_of_ready he hr, hready hr, hltt, hidlet (hready hr)⟩

/-! ## A frame after the run's first -/

@[simp] theorem seeWait_phase (c : Config) (k : WaitKind) (d : Display) : (seeWait c k d).phase = d.phase := by
  rw [PortControl.seeWait_eq]
  split <;> rfl

@[simp] theorem seeWait_received (c : Config) (k : WaitKind) (d : Display) :
    (seeWait c k d).received = d.received := by
  rw [PortControl.seeWait_eq]
  split <;> rfl

@[simp] theorem seeWait_frameSeen (c : Config) (k : WaitKind) (d : Display) :
    (seeWait c k d).frameSeen = d.frameSeen := by
  rw [PortControl.seeWait_eq]
  split <;> rfl

/-- A later frame is its settling delay and two latches, in whatever phase the display is. -/
theorem frameResult_display_of_seen {s : State} (hseen : s.display.frameSeen = true) (rs : Bool) (b : Byte) :
    (frameResult rs b s).display = latchNibble (s.draws + 7) ⟨rs, loNibble b⟩
      (latchNibble (s.draws + 3) ⟨rs, hiNibble b⟩ (seeWait s.cfg .settle s.display)) := by
  rw [frameResult, ← hiNibble_eq, ← loNibble_eq, seeFrameStart_seen (by simpa using hseen)]

/-- R112: of two latches on a display that awaits a low nibble, the first completes the pending byte and the second is
left pending. -/
theorem latchNibble_pair_of_low {d : Display} {hi : Latch} {e : Bool} (hd : d.phase = .low hi e) (m n : Nat)
    {first : Latch} (hrs : hi.rs = first.rs) (second : Latch) :
    (latchNibble n second (latchNibble m first d)).received
        = d.received ++ [⟨mkFrame first.rs (hi.nib ++ first.nib), !e⟩] ∧
      ∃ e', (latchNibble n second (latchNibble m first d)).phase = .low second e' := by
  obtain ⟨hrec, -, hhigh, -⟩ :=
    receiveFrame_record m hi first e { d with latches := d.latches ++ [first] } hrs
  rw [latchNibble_low hd, latchNibble_high hhigh]
  exact ⟨hrec, _, rfl⟩

/-- Settles O46: the frame's two latches, after a settling delay that leaves the pending nibble. -/
theorem oddNibblePairsAcrossFrames : Obligations.OddNibblePairsAcrossFrames := by
  intro s i rs b hi e hs hseen hphase hrs hf
  obtain ⟨hrec, e', hlow⟩ := latchNibble_pair_of_low (d := seeWait s.cfg .settle s.display)
    ((seeWait_phase _ _ _).trans hphase) (s.draws + 3) (s.draws + 7) (first := ⟨rs, hiNibble b⟩) hrs ⟨rs, loNibble b⟩
  rw [← frameResult_display_of_seen hseen] at hrec hlow
  rw [seeWait_received] at hrec
  exact ⟨_, e', exec_of_frameOf hf hs, hrec, hlow⟩

/-! ## PORT_INIT issued again -/

/-- What the display sees of PORT_INIT: its two writes, from the values that they leave in the registers, and then the
loss of its content. -/
theorem portInitBody_display (s : State) :
    (portInitBody s).display = seePortInit (s.draws + 1)
      (seeWrite s.cfg (s.draws + 1) s.out (portInitBody s).dirOut (portInitBody s).out (portInitBody s).dirOut
        (seeWrite s.cfg s.draws s.out s.dirOut s.out (portInitBody s).dirOut s.display)) := by
  obtain ⟨o, d, hw⟩ := PortControl.portInitWrites_eq_writeOut_writeDir s
  simp [portInitBody, hw]

/-- R109: EN is driven and at 0 before PORT_INIT's writes and after them, so neither makes a falling edge. -/
theorem portInitBody_display_of_readyIdle {s : State} (hs : ReadyIdle s) :
    (portInitBody s).display = seePortInit (s.draws + 1) s.display := by
  obtain ⟨hout, hdrv⟩ := readyIdle_idleOut hs
  have hdrv' : OwnedDriven s.cfg (portInitBody s).dirOut := fun k hk =>
    (StateRules.portInitBody_owned hout.valid hk).2
  have hen : ownedLine s.cfg s.cfg.enBit = true := (Masks.ownedLine_iff _ _).mpr (.inr (.inl rfl))
  obtain ⟨-, -, hnone⟩ :=
    seeWrite_latches s.cfg s.draws s.out s.dirOut s.out (portInitBody s).dirOut s.display
  have hdirection : seeWrite s.cfg s.draws s.out s.dirOut s.out (portInitBody s).dirOut s.display = s.display :=
    hnone (PortInitStrobe.latchHappens_direction (hdrv _ hen) (hdrv' _ hen) _ _)
  rw [portInitBody_display, hdirection, CodecFrames.seeWrite_of_en_low (TransferTrace.enBitOf_idle hout) hdrv']

theorem exec_portInit_display {s t : State} (hs : ReadyIdle s) (he : exec .portInit s = .next t) :
    t.display = seePortInit (s.draws + 1) s.display := by
  obtain ⟨-, rfl⟩ := always_next he
  exact portInitBody_display_of_readyIdle hs

/-- Settles O50: the display sees PORT_INIT alone, which keeps the phase, the busy mark and the records. -/
theorem reinitKeepsPhase : Obligations.ReinitKeepsPhase := by
  intro s hs
  have ⟨_, hfault, _⟩ := hs
  have he : exec .portInit s = .next (advance (portInitBody s)) := always_none hfault
  refine ⟨_, he, exec_readyIdle hs he, ?_⟩
  rw [exec_portInit_display hs he]
  exact ⟨rfl, rfl, rfl, rfl, rfl, rfl⟩

/-! ## The nibble that the display awaits -/

/-- The run's first frame has been sent, the phase is known, and `low` says whether the display awaits a low nibble. -/
def Awaits (low : Bool) (d : Display) : Prop :=
  d.frameSeen = true ∧ d.phase ≠ .unknown ∧ awaitsLow d.phase = low

theorem Awaits.of_eq {low : Bool} {d d' : Display} (h : Awaits low d) (hseen : d'.frameSeen = d.frameSeen)
    (hphase : d'.phase = d.phase) : Awaits low d' := by
  rwa [Awaits, hseen, hphase]

/-- R97: a latch turns the display from one half of a frame to the other. -/
theorem Awaits.latchNibble {low : Bool} {d : Display} (h : Awaits low d) (n : Nat) (l : Latch) :
    Awaits (!low) (latchNibble n l d) := by
  obtain ⟨hseen, hknown, rfl⟩ := h
  obtain ⟨hfromLow, hfromHigh⟩ := latchNibble_phase (n := n) (l := l) hknown
  refine ⟨(latchNibble_frameSeen n l d).trans hseen, ?_⟩
  cases hd : d.phase with
  | unknown => exact absurd hd hknown
  | high => simp [hfromHigh hd, awaitsLow]
  | low hi e => simp [hfromLow hi e hd, awaitsLow]

/-- Two latches bring it back. -/
theorem Awaits.latchNibble_pair {low : Bool} {d : Display} (h : Awaits low d) (m n : Nat) (l l' : Latch) :
    Awaits low (Machine.latchNibble n l' (Machine.latchNibble m l d)) := by
  simpa using (h.latchNibble m l).latchNibble n l'

theorem Awaits.seeWait {low : Bool} {d : Display} (h : Awaits low d) (c : Config) (k : WaitKind) :
    Awaits low (seeWait c k d) :=
  h.of_eq (seeWait_frameSeen c k d) (seeWait_phase c k d)

theorem exec_wait_awaits {low : Bool} {s t : State} (h : Awaits low s.display) {k : WaitKind}
    (he : exec (.wait k) s = .next t) : Awaits low t.display := by
  obtain ⟨-, rfl⟩ := always_next he
  exact h.seeWait _ _

section

variable {low : Bool} {s t : State} (hs : ReadyIdle s) (h : Awaits low s.display)
include hs h

theorem exec_sendNibble_awaits {v : Nibble} (he : exec (.sendNibble v) s = .next t) : Awaits (!low) t.display := by
  cases (exec_sendNibble_of_readyIdle hs v).symm.trans he
  exact h.latchNibble _ _

theorem exec_sendByte_awaits {b : Byte} (he : exec (.sendByte b) s = .next t) : Awaits low t.display := by
  cases (exec_sendByte_of_readyIdle hs b).symm.trans he
  exact h.latchNibble_pair _ _ _ _

/-- R112: a frame after the run's first leaves the display awaiting what it awaited. -/
theorem exec_frame_awaits {i : Instr} {f : Frame} (hf : frameOf i = some f) (he : exec i s = .next t) :
    Awaits low t.display := by
  obtain ⟨rs, b, rfl, -⟩ := CodecFrames.exists_bodyOf_eq_frameBody hf
  cases (exec_of_frameOf hf hs).symm.trans he
  have ⟨hseen, _⟩ := h
  rw [frameResult_display_of_seen hseen]
  exact (h.seeWait _ _).latchNibble_pair _ _ _ _

theorem exec_portInit_awaits (he : exec .portInit s = .next t) : Awaits low t.display := by
  rw [exec_portInit_display hs he]
  exact h.of_eq rfl rfl

end

/-- Settles O51: SEND_NIBBLE makes one latch, SEND_BYTE and the frames make two, PORT_INIT and WAIT none. -/
theorem noCommandRestoresPhase : Obligations.NoCommandRestoresPhase := by
  intro s t i hs hseen hknown he
  have h : Awaits (awaitsLow s.display.phase) s.display := ⟨hseen, hknown, rfl⟩
  refine ⟨exec_readyIdle hs he, ?_⟩
  cases i with
  | sendNibble v => exact exec_sendNibble_awaits hs h he
  | sendByte b => exact exec_sendByte_awaits hs h he
  | portInit => exact exec_portInit_awaits hs h he
  | wait k => exact exec_wait_awaits h he
  | clearDisplay => exact exec_frame_awaits hs h rfl he
  | returnHome => exact exec_frame_awaits hs h rfl he
  | displayOn => exact exec_frame_awaits hs h rfl he
  | functionSet => exact exec_frame_awaits hs h rfl he
  | setAddress l col => exact exec_frame_awaits hs h rfl he
  | character c => exact exec_frame_awaits hs h rfl he
  | sendInstruction code => exact exec_frame_awaits hs h rfl he
  | sendCharacter c => exact exec_frame_awaits hs h rfl he

end Sys2Proof.PairingPhase
end

section
/-! The three invariants of a run hold at power-up (10_state.md section 4, 70_reset_and_hazards.md R106), whatever the
command list: a valid configuration and drawn register values of the port's width are all they ask of the launch. -/

namespace Sys2Proof.PowerUpInvariants

open Sys2Proof.Machine Sys2Proof.Safety

section

variable (c : Config) (p : List SourceCommand) (o d : PortWord)

/-- R28: the registers are in range, and a machine that is not ready need not be idle. -/
theorem powerUp_idleInv (hc : configValid c = true) (ho : o < 2 ^ c.portWidth) (hd : d < 2 ^ c.portWidth) :
    IdleInv (State.powerUp c p o d) :=
  ⟨hc, ⟨ho, hd⟩, fun hready => nomatch hready⟩

/-- R24, R31: the empty trace names no write that the drawn values could disagree with. -/
theorem powerUp_traceInv : TraceInv (State.powerUp c p o d) :=
  ⟨fun _ hout => (nomatch hout), fun _ hdir => (nomatch hdir), fun hready => nomatch hready⟩

/-- R88: no list is too short for `pc` 0, and there is no mark. -/
theorem powerUp_faultInv : FaultInv (State.powerUp c p o d) :=
  ⟨Nat.zero_le _, fun _ _ hmark => nomatch hmark⟩

end

/-- R7: the wiring that reset is launched with. -/
theorem launchConfig_valid : configValid launchConfig = true := by decide

/-- Settles O2: reset is the power-up state of a valid configuration with both registers 0. -/
theorem resetMeetsInvariants : Obligations.ResetMeetsInvariants :=
  ⟨powerUp_idleInv _ _ _ _ launchConfig_valid (Nat.two_pow_pos _) (Nat.two_pow_pos _),
    powerUp_traceInv _ _ _ _, powerUp_faultInv _ _ _ _⟩

end Sys2Proof.PowerUpInvariants
end
